-- ==== Sys2Proof/Word.lean ====
section
/-! DEFINITION. The word types of the block: u8 and u16 (00_scope.md R8).
A uW timestamp has the run-time width `W` and is held as a natural number below `2^W`
(notes/assumptions/7.md). -/

namespace Sys2Proof

/-- u8: one byte of a packet or of the receive buffer (00_scope.md R8). -/
abbrev Byte := BitVec 8

/-- u16: one 16-bit field of a packet or a Panel register (00_scope.md R8). -/
abbrev U16 := BitVec 16

end Sys2Proof
end

