-- ==== Sys2Proof/Config.lean ====
section
/-! DEFINITION. The implementation parameters of 00_scope.md R6, which RESET latches
(70_reset_and_hazards.md R129). `CfgOperand` is the configuration as the host supplies it;
`Cfg` is a latched one. Everything the spec marks OPEN is data here, so that a statement over
every state speaks of every value of it. -/

namespace Sys2Proof

/-- U16_ORDER: the byte order of every 16-bit wire field (20_memory.md R35). -/
inductive U16Order where
  | le  -- low byte first
  | be  -- high byte first
  deriving DecidableEq, Repr

/-- The six outbound channels (41_scheduler.md R90). -/
inductive Channel where
  | ind | plot | panel | inp | sen | cfg
  deriving DecidableEq, Repr

/-- The channels that one mode enables: the row `CH_EN(mode, ·)` (41_scheduler.md R90). -/
structure ChannelEnables where
  ind : Bool
  plot : Bool
  panel : Bool
  inp : Bool
  sen : Bool
  cfg : Bool
  deriving DecidableEq, Repr

/-- Every channel enabled: the reference configuration (41_scheduler.md R90). -/
def ChannelEnables.all : ChannelEnables := ⟨true, true, true, true, true, true⟩

/-- The parameters of 00_scope.md R6 other than U16_ORDER. -/
structure Params where
  /-- `C`: receive-buffer capacity in bytes. -/
  c : Nat
  /-- `W`: width in bits of the millisecond counter and of every timestamp. -/
  w : Nat
  /-- `T_IND`: Indicator interval, ms. -/
  tInd : Nat
  /-- `T_PLOT`: Plot interval, ms. -/
  tPlot : Nat
  /-- `T_RWIN`: Panel resend window, ms. -/
  tRwin : Nat
  /-- `T_RINT`: Panel resend interval, ms. -/
  tRint : Nat
  /-- `T_INP`: Input-telemetry interval, ms (OPEN). -/
  tInp : Nat
  /-- `T_SEN`: Sensor-telemetry interval, ms (OPEN). -/
  tSen : Nat
  /-- `VALIDATE_CSUM`: the decoder rejects checksum mismatches. -/
  validateCsum : Bool
  /-- `MODE`: the telemetry/debug mode (OPEN). -/
  mode : Nat
  /-- `CH_EN`: the enables of each listed mode (OPEN). DESIGN CHOICE: a table
  (notes/assumptions/8.md). -/
  chEn : List (Nat × ChannelEnables)
  /-- `NAME_CATALOG`: the channel names of the Config/names packet (OPEN). -/
  names : List (List Byte)
  deriving DecidableEq, Repr

/-- The operand of RESET: a configuration as supplied, legal or not. `u16Order` is the code the
host drives: 0 is LE, 1 is BE, any other code is neither (notes/assumptions/1.md). -/
structure CfgOperand extends Params where
  u16Order : Byte
  deriving DecidableEq, Repr

/-- A latched configuration (70_reset_and_hazards.md R129). -/
structure Cfg extends Params where
  u16Order : U16Order
  deriving DecidableEq, Repr

/-- The values of 00_scope.md R6 for this hardware, and for each OPEN parameter the value the model
names. DESIGN CHOICE for `tInp`, `tSen`, `mode` and `names` (notes/assumptions/4.md); PRESUMED by
the spec itself for `w` and LE (notes/assumptions/12.md). -/
def Params.reference : Params where
  c := 64
  w := 32
  tInd := 500
  tPlot := 50
  tRwin := 300
  tRint := 100
  tInp := 0
  tSen := 0
  validateCsum := true
  mode := 0
  chEn := []
  names := []

/-- The reference configuration, latched. -/
def Cfg.reference : Cfg := { Params.reference with u16Order := .le }

/-- The reference configuration as an operand of RESET (30_encoding.md R70: "parameters not listed
take their 00_scope.md rule R6 value"). -/
def CfgOperand.reference : CfgOperand := { Params.reference with u16Order := 0 }

end Sys2Proof
end

