-- ==== Sys2Proof/Syntax.lean ====
section
/-! DEFINITION. The syntax of the block: the sample record of TICK (30_encoding.md R50), the inbound
packets (R57, R60), the instruction type with one constructor per row of spec/opcode_table.json, and
what the host puts on the command port (R47, R70). -/

namespace Sys2Proof

/-- `S.ind_v0`, `S.ind_v1` (30_encoding.md R50, R62). -/
structure IndSample where
  v0 : Byte
  v1 : Byte
  deriving DecidableEq, Repr

/-- `S.plot_count`, `S.plot_s0` .. `S.plot_s2` (30_encoding.md R50, R63). -/
structure PlotSample where
  count : Byte
  s0 : Byte
  s1 : Byte
  s2 : Byte
  deriving DecidableEq, Repr

/-- `S.pan_l`, `S.pan_r`, `S.pan_flags` (30_encoding.md R50, R61). -/
structure PanSample where
  l : U16
  r : U16
  flags : Byte
  deriving DecidableEq, Repr

/-- `S.inp_a0` .. `S.inp_a3`, `S.inp_d0` .. `S.inp_d2` (30_encoding.md R50, R65). -/
structure InpSample where
  a0 : U16
  a1 : U16
  a2 : U16
  a3 : U16
  d0 : Byte
  d1 : Byte
  d2 : Byte
  deriving DecidableEq, Repr

/-- `S.sen_temp`, `S.sen_imu_x` .. `S.sen_imu_z`, `S.sen_flags` (30_encoding.md R50, R66). -/
structure SenSample where
  temp : U16
  imuX : U16
  imuY : U16
  imuZ : U16
  flags : Byte
  deriving DecidableEq, Repr

/-- The sample record `S` of one TICK (30_encoding.md R50), grouped by the packet that carries each
field. -/
structure Sample where
  ind : IndSample
  plot : PlotSample
  pan : PanSample
  inp : InpSample
  sen : SenSample
  deriving DecidableEq, Repr

/-- The kind of an inbound packet (30_encoding.md R52, R67). -/
inductive PacketKind where
  | state | event
  deriving DecidableEq, Repr

/-- The fields of a State packet after its header (30_encoding.md R57). The checksum byte is a field:
with `VALIDATE_CSUM = 0` the decoder accepts any (40_decoder.md R79). -/
structure StatePacket where
  axis0 : U16
  axis1 : U16
  axis2 : U16
  axis3 : U16
  knob0 : U16
  knob1 : U16
  sw : Byte
  csum : Byte
  trl0 : Byte
  trl1 : Byte
  deriving DecidableEq, Repr

/-- `line(k) = sw[k-1]` for `k = 1 .. 8` (30_encoding.md R58, 40_decoder.md R83). -/
def StatePacket.line (p : StatePacket) (k : Nat) : Bool := p.sw.getLsbD (k - 1)

/-- One constructor per row of spec/opcode_table.json. The eight commands carry their operands
(30_encoding.md R47); the eight packet rows carry the packet's fields, and an outbound one the `now`
and `connected` of the tick or request it belongs to (notes/assumptions/6.md). -/
inductive Instr where
  | nop
  | ingest (rx : List Byte)
  | drain
  | tick (now : Nat) (connected : Bool) (sample : Sample)
  | configReq (connected : Bool)
  | reserved101
  | reserved110
  | reset (cfg : CfgOperand)
  | state (p : StatePacket)
  | event (id : Byte) (csum : Byte)
  | panel (now : Nat) (connected : Bool) (v : PanSample)
  | indicator (now : Nat) (connected : Bool) (v : IndSample)
  | plot (now : Nat) (connected : Bool) (v : PlotSample)
  | configNames (connected : Bool) (names : List (List Byte))
  | inputTelemetry (now : Nat) (connected : Bool) (v : InpSample)
  | sensorTelemetry (now : Nat) (connected : Bool) (v : SenSample)
  deriving DecidableEq, Repr

/-- What the host puts on the port for one step: a command as its `cmd[2:0]` code followed by its
operand bytes (30_encoding.md R70), or one wire packet with the `now` and `connected` it is handled
under (notes/assumptions/6.md). -/
inductive PortInput where
  | cmd (code : BitVec 3) (operands : List Byte)
  | pkt (now : Nat) (connected : Bool) (bytes : List Byte)
  deriving DecidableEq, Repr

end Sys2Proof
end

