-- ==== Sys2Proof/Machine/Operands.lean ====
section
/-! DEFINITION. The operand forms and the arithmetic of the block: Sum8 and Elapsed (00_scope.md R10),
16-bit wire fields (20_memory.md R35, 30_encoding.md R56), the packet table (30_encoding.md R54, R55)
and the serialisation of every packet (30_encoding.md R57 to R66, 41_scheduler.md R91). -/

namespace Sys2Proof.Machine

/-- `Sum8(s)`: the sum of the bytes modulo 256 (00_scope.md R10). -/
def sum8 : List Byte → Byte
  | [] => 0
  | b :: bs => b + sum8 bs

/-- `Elapsed(now, then) = (now - then) mod 2^W` (00_scope.md R10, 41_scheduler.md R88): the exact
difference, narrowed once. -/
def elapsed (w now since : Nat) : Nat :=
  (((now : Int) - (since : Int)) % ((2 ^ w : Nat) : Int)).toNat

/-- The value that `W` wires of the `now` port carry (30_encoding.md R50).
DESIGN CHOICE for a number of more than `W` bits (notes/assumptions/7.md). -/
def nowOnPort (w now : Nat) : Nat := now % 2 ^ w

/-- `Put16(v)`: the two wire bytes of a u16 (30_encoding.md R56). -/
def put16 (ord : U16Order) (v : U16) : List Byte :=
  match ord with
  | .le => [v.extractLsb' 0 8, v.extractLsb' 8 8]
  | .be => [v.extractLsb' 8 8, v.extractLsb' 0 8]

/-- The u16 whose first and second wire bytes are `a` and `b` (20_memory.md R35). -/
def join16 (ord : U16Order) (a b : Byte) : U16 :=
  match ord with
  | .le => b ++ a
  | .be => a ++ b

/-- `F16(p, o)`: the u16 field at packet offset `o` (30_encoding.md R56); `none` where the packet has
no two bytes there. -/
def f16 (ord : U16Order) (p : List Byte) (o : Nat) : Option U16 :=
  match p[o]?, p[o + 1]? with
  | some a, some b => some (join16 ord a b)
  | _, _ => none

/-- The eight packets of 30_encoding.md R54. -/
inductive PacketType where
  | state | event | panel | indicator | plot | configNames | inputTelemetry | sensorTelemetry
  deriving DecidableEq, Repr

/-- `p[0] p[1]` of each packet (30_encoding.md R54). Headers are byte pairs: `U16_ORDER` never changes
them (20_memory.md R36). -/
def headerBytes : PacketType → List Byte
  | .state => [0xAA, 0x55]
  | .event => [0xBB, 0x66]
  | .panel => [0xCC, 0x11]
  | .indicator => [0xCC, 0x22]
  | .plot => [0xCC, 0x33]
  | .configNames => [0xCC, 0x44]
  | .inputTelemetry => [0xCC, 0x55]
  | .sensorTelemetry => [0xCC, 0x66]

/-- The packet whose header is the byte pair `a b`, and `none` for the undefined header values
(30_encoding.md R54, R68). -/
def packetOfHeader (a b : Byte) : Option PacketType :=
  if a = 0xAA then
    if b = 0x55 then some .state else none
  else if a = 0xBB then
    if b = 0x66 then some .event else none
  else if a = 0xCC then
    if b = 0x11 then some .panel
    else if b = 0x22 then some .indicator
    else if b = 0x33 then some .plot
    else if b = 0x44 then some .configNames
    else if b = 0x55 then some .inputTelemetry
    else if b = 0x66 then some .sensorTelemetry
    else none
  else none

/-- `HdrType(a, b)`: the decoder recognises exactly two headers (40_decoder.md R76,
30_encoding.md R67). -/
def hdrType (a b : Byte) : Option PacketKind :=
  if a = 0xAA ∧ b = 0x55 then some .state
  else if a = 0xBB ∧ b = 0x66 then some .event
  else none

/-- `SIZE(t)`: the total size of an inbound packet (30_encoding.md R54, 40_decoder.md R75). -/
def packetSize : PacketKind → Nat
  | .state => 18
  | .event => 4

/-- `CK(t)`: the position of the checksum byte of an inbound packet (30_encoding.md R55,
40_decoder.md R75). -/
def checksumAt : PacketKind → Nat
  | .state => 15
  | .event => 3

/-- Offsets 2 .. 14 of a State packet, the checksummed range (30_encoding.md R55, R57). -/
def statePayload (ord : U16Order) (p : StatePacket) : List Byte :=
  put16 ord p.axis0 ++ put16 ord p.axis1 ++ put16 ord p.axis2 ++ put16 ord p.axis3
    ++ put16 ord p.knob0 ++ put16 ord p.knob1 ++ [p.sw]

/-- The 18 wire bytes of a State packet (30_encoding.md R57); the trailer is outside the checksum
(R59). -/
def packState (ord : U16Order) (p : StatePacket) : List Byte :=
  headerBytes .state ++ statePayload ord p ++ [p.csum, p.trl0, p.trl1]

/-- The fields of a State packet, read from its bytes by 40_decoder.md R83. -/
def unpackState (ord : U16Order) (p : List Byte) : Option StatePacket :=
  match f16 ord p 2, f16 ord p 4, f16 ord p 6, f16 ord p 8, f16 ord p 10, f16 ord p 12,
    p[14]?, p[15]?, p[16]?, p[17]? with
  | some axis0, some axis1, some axis2, some axis3, some knob0, some knob1,
    some sw, some csum, some trl0, some trl1 =>
    some { axis0, axis1, axis2, axis3, knob0, knob1, sw, csum, trl0, trl1 }
  | _, _, _, _, _, _, _, _, _, _ => none

/-- The 4 wire bytes of an Event packet (30_encoding.md R60). -/
def packEvent (id csum : Byte) : List Byte := headerBytes .event ++ [id, csum]

/-- A packet whose checksum byte follows its payload (30_encoding.md R55). -/
def withChecksum (t : PacketType) (payload : List Byte) : List Byte :=
  headerBytes t ++ payload ++ [sum8 payload]

/-- The checksummed bytes of an Indicator packet (30_encoding.md R62). -/
def indPayload (v : IndSample) : List Byte := [v.v0, v.v1]

/-- The checksummed bytes of a Plot packet (30_encoding.md R63). -/
def plotPayload (v : PlotSample) : List Byte := [v.count, v.s0, v.s1, v.s2]

/-- The checksummed bytes of a Panel packet (30_encoding.md R61). -/
def panPayload (ord : U16Order) (v : PanSample) : List Byte :=
  put16 ord v.l ++ put16 ord v.r ++ [v.flags]

/-- The checksummed bytes of an Input-telemetry packet (30_encoding.md R65). -/
def inpPayload (ord : U16Order) (v : InpSample) : List Byte :=
  put16 ord v.a0 ++ put16 ord v.a1 ++ put16 ord v.a2 ++ put16 ord v.a3 ++ [v.d0, v.d1, v.d2]

/-- The checksummed bytes of a Sensor-telemetry packet (30_encoding.md R66). -/
def senPayload (ord : U16Order) (v : SenSample) : List Byte :=
  put16 ord v.temp ++ put16 ord v.imuX ++ put16 ord v.imuY ++ put16 ord v.imuZ ++ [v.flags]

/-- `PackInd(S)` (41_scheduler.md R91). -/
def packInd (v : IndSample) : List Byte := withChecksum .indicator (indPayload v)

/-- `PackPlot(S)` (41_scheduler.md R91). -/
def packPlot (v : PlotSample) : List Byte := withChecksum .plot (plotPayload v)

/-- `PackPanel(l, r, f)` (41_scheduler.md R91). -/
def packPanel (ord : U16Order) (v : PanSample) : List Byte := withChecksum .panel (panPayload ord v)

/-- `PackInp(S)` (41_scheduler.md R91). -/
def packInp (ord : U16Order) (v : InpSample) : List Byte :=
  withChecksum .inputTelemetry (inpPayload ord v)

/-- `PackSen(S)` (41_scheduler.md R91). -/
def packSen (ord : U16Order) (v : SenSample) : List Byte :=
  withChecksum .sensorTelemetry (senPayload ord v)

/-- The (length, name-bytes) tuples of a Config/names packet (30_encoding.md R64). -/
def namesPayload : List (List Byte) → List Byte
  | [] => []
  | name :: rest => BitVec.ofNat 8 name.length :: (name ++ namesPayload rest)

/-- `PackCfg(cat)`: the Config/names packet, which has no checksum (30_encoding.md R64). -/
def packCfg (names : List (List Byte)) : List Byte :=
  headerBytes .configNames ++ BitVec.ofNat 8 names.length :: namesPayload names

end Sys2Proof.Machine
end

