-- ==== Sys2Proof/WellFormed.lean ====
section
/-! DEFINITION. Which instructions the port can carry. Every field has its type's width; what remains
to check are the unbounded naturals of the operand layout (notes/assumptions/1.md) and the u8 count
and lengths of a Config/names packet (30_encoding.md R64). -/

namespace Sys2Proof

/-- The first natural number that the port's length-prefixed form (at most 255 bytes) cannot carry
(notes/assumptions/1.md). -/
def portNatBound : Nat := 256 ^ 255

/-- `n` can be carried as a natural operand. -/
def fitsPort (n : Nat) : Bool := decide (n < portNatBound)

/-- Every natural number, list length and name length of a configuration can be carried. -/
def Params.fitsPort (p : Params) : Bool :=
  [p.c, p.w, p.tInd, p.tPlot, p.tRwin, p.tRint, p.tInp, p.tSen, p.mode,
    p.chEn.length, p.names.length].all Sys2Proof.fitsPort
  && p.chEn.all (fun row => Sys2Proof.fitsPort row.1)
  && p.names.all (fun name => Sys2Proof.fitsPort name.length)

/-- A catalog that the u8 count and u8 lengths of a Config/names packet can describe
(30_encoding.md R64, 00_scope.md R7). -/
def catalogFits (names : List (List Byte)) : Bool :=
  decide (names.length ≤ 255) && names.all (fun name => decide (name.length ≤ 255))

/-- The port can carry this instruction. -/
def Instr.wellFormed : Instr → Bool
  | .nop => true
  | .ingest rx => Sys2Proof.fitsPort rx.length
  | .drain => true
  | .tick now _ _ => Sys2Proof.fitsPort now
  | .configReq _ => true
  | .reserved101 => true
  | .reserved110 => true
  | .reset cfg => cfg.toParams.fitsPort
  | .state _ => true
  | .event _ _ => true
  | .panel _ _ _ => true
  | .indicator _ _ _ => true
  | .plot _ _ _ => true
  | .configNames _ names => catalogFits names
  | .inputTelemetry _ _ _ => true
  | .sensorTelemetry _ _ _ => true

end Sys2Proof
end

