-- ==== Sys2Proof/Decode.lean ====
section
/-! DEFINITION. Decoding what stands on the port, total on any bytes and rejecting by name; and after it
the encoder. The command codes are 30_encoding.md R47, the packet layouts 30_encoding.md R53 to R66.
The spec gives no binary layout for the operands of a command: the one here is the model's own
(DESIGN CHOICE, notes/assumptions/1.md). -/

namespace Sys2Proof

open Sys2Proof.Machine

/-- Why a port record is no instruction. Taking such a record changes nothing (`runInput`). -/
inductive DecodeError where
  /-- The record ends inside an operand or a packet (60_exceptions.md R109 for a packet). -/
  | truncated
  /-- The 16-bit header value is none of 30_encoding.md R54 (R67, R68: framing noise). -/
  | unknownHeader (h : BitVec 16)
  /-- An outbound packet whose checksum byte is not the one of 30_encoding.md R55: the block builds no
  such packet, and inbound its header is framing noise (R67). -/
  | wrongChecksum
  deriving DecidableEq, Repr

/-! ### Reading bytes -/

/-- One byte. -/
def takeByte : List Byte → Except DecodeError (Byte × List Byte)
  | [] => .error .truncated
  | b :: rest => .ok (b, rest)

/-- `n` bytes. -/
def takeBytes (n : Nat) (bs : List Byte) : Except DecodeError (List Byte × List Byte) :=
  if n ≤ bs.length then .ok (bs.take n, bs.drop n) else .error .truncated

/-- The natural number whose base-256 digits are `bs`, least significant first. -/
def leNat : List Byte → Nat
  | [] => 0
  | b :: bs => b.toNat + 256 * leNat bs

/-- A natural operand: one length byte, then that many base-256 digits. -/
def takeNat (bs : List Byte) : Except DecodeError (Nat × List Byte) :=
  match takeByte bs with
  | .error e => .error e
  | .ok (k, rest) =>
    match takeBytes k.toNat rest with
    | .error e => .error e
    | .ok (digits, rest) => .ok (leNat digits, rest)

/-- A one-bit operand: bit 0 of a byte. -/
def takeBit (bs : List Byte) : Except DecodeError (Bool × List Byte) :=
  match takeByte bs with
  | .error e => .error e
  | .ok (b, rest) => .ok (b.getLsbD 0, rest)

/-- A u16 in the byte order `ord`. -/
def takeU16 (ord : U16Order) (bs : List Byte) : Except DecodeError (U16 × List Byte) :=
  match takeByte bs with
  | .error e => .error e
  | .ok (a, rest) =>
    match takeByte rest with
    | .error e => .error e
    | .ok (b, rest) => .ok (join16 ord a b, rest)

/-- `n` items, each read by `item`. -/
def takeMany {α : Type} (item : List Byte → Except DecodeError (α × List Byte)) :
    Nat → List Byte → Except DecodeError (List α × List Byte)
  | 0, bs => .ok ([], bs)
  | n + 1, bs =>
    match item bs with
    | .error e => .error e
    | .ok (x, rest) =>
      match takeMany item n rest with
      | .error e => .error e
      | .ok (xs, rest) => .ok (x :: xs, rest)

/-- A value that the operand lists, or its default (30_encoding.md R70). -/
def takeListed {α : Type} (listed : Bool) (default : α)
    (item : List Byte → Except DecodeError (α × List Byte)) (bs : List Byte) :
    Except DecodeError (α × List Byte) :=
  if listed then item bs else .ok (default, bs)

/-- A byte string: its length, then its bytes. -/
def takeString (bs : List Byte) : Except DecodeError (List Byte × List Byte) := do
  let (n, bs) ← takeNat bs
  takeBytes n bs

/-- A catalog as an operand of RESET: the number of names, then each name. -/
def takeCatalog (bs : List Byte) : Except DecodeError (List (List Byte) × List Byte) := do
  let (n, bs) ← takeNat bs
  takeMany takeString n bs

/-- Six enables, bits 0 to 5 of a byte in the order IND, PLOT, PANEL, INP, SEN, CFG. -/
def enablesOfByte (b : Byte) : ChannelEnables where
  ind := b.getLsbD 0
  plot := b.getLsbD 1
  panel := b.getLsbD 2
  inp := b.getLsbD 3
  sen := b.getLsbD 4
  cfg := b.getLsbD 5

/-- One row of the CH_EN table: the mode, then its enables. -/
def takeEnableRow (bs : List Byte) : Except DecodeError ((Nat × ChannelEnables) × List Byte) := do
  let (mode, bs) ← takeNat bs
  let (b, bs) ← takeByte bs
  return ((mode, enablesOfByte b), bs)

/-- The CH_EN table: the number of rows, then each row. -/
def takeEnableTable (bs : List Byte) :
    Except DecodeError (List (Nat × ChannelEnables) × List Byte) := do
  let (n, bs) ← takeNat bs
  takeMany takeEnableRow n bs

/-- The operand of RESET: a 16-bit mask of the listed parameters (bit `j` is row `j` of the table of
00_scope.md R6), then the listed ones in that order; the others take their R6 value
(30_encoding.md R70). -/
def takeConfig (bs : List Byte) : Except DecodeError (CfgOperand × List Byte) := do
  let dflt := CfgOperand.reference
  let (m, bs) ← takeU16 .le bs
  let (c, bs) ← takeListed (m.getLsbD 0) dflt.c takeNat bs
  let (w, bs) ← takeListed (m.getLsbD 1) dflt.w takeNat bs
  let (tInd, bs) ← takeListed (m.getLsbD 2) dflt.tInd takeNat bs
  let (tPlot, bs) ← takeListed (m.getLsbD 3) dflt.tPlot takeNat bs
  let (tRwin, bs) ← takeListed (m.getLsbD 4) dflt.tRwin takeNat bs
  let (tRint, bs) ← takeListed (m.getLsbD 5) dflt.tRint takeNat bs
  let (tInp, bs) ← takeListed (m.getLsbD 6) dflt.tInp takeNat bs
  let (tSen, bs) ← takeListed (m.getLsbD 7) dflt.tSen takeNat bs
  let (validateCsum, bs) ← takeListed (m.getLsbD 8) dflt.validateCsum takeBit bs
  let (u16Order, bs) ← takeListed (m.getLsbD 9) dflt.u16Order takeByte bs
  let (mode, bs) ← takeListed (m.getLsbD 10) dflt.mode takeNat bs
  let (chEn, bs) ← takeListed (m.getLsbD 11) dflt.chEn takeEnableTable bs
  let (names, bs) ← takeListed (m.getLsbD 12) dflt.names takeCatalog bs
  return ({ c, w, tInd, tPlot, tRwin, tRint, tInp, tSen, validateCsum, mode, chEn, names,
            u16Order }, bs)

/-! ### The fields of the sample record and of the packets -/

/-- The fields of an Indicator packet (30_encoding.md R62). -/
def takeInd (bs : List Byte) : Except DecodeError (IndSample × List Byte) := do
  let (v0, bs) ← takeByte bs
  let (v1, bs) ← takeByte bs
  return ({ v0, v1 }, bs)

/-- The fields of a Plot packet (30_encoding.md R63). -/
def takePlot (bs : List Byte) : Except DecodeError (PlotSample × List Byte) := do
  let (count, bs) ← takeByte bs
  let (s0, bs) ← takeByte bs
  let (s1, bs) ← takeByte bs
  let (s2, bs) ← takeByte bs
  return ({ count, s0, s1, s2 }, bs)

/-- The fields of a Panel packet (30_encoding.md R61). -/
def takePan (ord : U16Order) (bs : List Byte) : Except DecodeError (PanSample × List Byte) := do
  let (l, bs) ← takeU16 ord bs
  let (r, bs) ← takeU16 ord bs
  let (flags, bs) ← takeByte bs
  return ({ l, r, flags }, bs)

/-- The fields of an Input-telemetry packet (30_encoding.md R65). -/
def takeInp (ord : U16Order) (bs : List Byte) : Except DecodeError (InpSample × List Byte) := do
  let (a0, bs) ← takeU16 ord bs
  let (a1, bs) ← takeU16 ord bs
  let (a2, bs) ← takeU16 ord bs
  let (a3, bs) ← takeU16 ord bs
  let (d0, bs) ← takeByte bs
  let (d1, bs) ← takeByte bs
  let (d2, bs) ← takeByte bs
  return ({ a0, a1, a2, a3, d0, d1, d2 }, bs)

/-- The fields of a Sensor-telemetry packet (30_encoding.md R66). -/
def takeSen (ord : U16Order) (bs : List Byte) : Except DecodeError (SenSample × List Byte) := do
  let (temp, bs) ← takeU16 ord bs
  let (imuX, bs) ← takeU16 ord bs
  let (imuY, bs) ← takeU16 ord bs
  let (imuZ, bs) ← takeU16 ord bs
  let (flags, bs) ← takeByte bs
  return ({ temp, imuX, imuY, imuZ, flags }, bs)

/-- The sample record as an operand of TICK: its fields in the order of the table of
30_encoding.md R50, u16 fields low byte first. -/
def takeSample (bs : List Byte) : Except DecodeError (Sample × List Byte) := do
  let (ind, bs) ← takeInd bs
  let (plot, bs) ← takePlot bs
  let (pan, bs) ← takePan .le bs
  let (inp, bs) ← takeInp .le bs
  let (sen, bs) ← takeSen .le bs
  return ({ ind, plot, pan, inp, sen }, bs)

/-- The fields of a State packet after its header (30_encoding.md R57). -/
def takeState (ord : U16Order) (bs : List Byte) : Except DecodeError (StatePacket × List Byte) := do
  let (axis0, bs) ← takeU16 ord bs
  let (axis1, bs) ← takeU16 ord bs
  let (axis2, bs) ← takeU16 ord bs
  let (axis3, bs) ← takeU16 ord bs
  let (knob0, bs) ← takeU16 ord bs
  let (knob1, bs) ← takeU16 ord bs
  let (sw, bs) ← takeByte bs
  let (csum, bs) ← takeByte bs
  let (trl0, bs) ← takeByte bs
  let (trl1, bs) ← takeByte bs
  return ({ axis0, axis1, axis2, axis3, knob0, knob1, sw, csum, trl0, trl1 }, bs)

/-- One (length, name-bytes) tuple of a Config/names packet (30_encoding.md R64). -/
def takeName (bs : List Byte) : Except DecodeError (List Byte × List Byte) := do
  let (n, bs) ← takeByte bs
  takeBytes n.toNat bs

/-- The names of a Config/names packet after its header (30_encoding.md R64). -/
def takeNames (bs : List Byte) : Except DecodeError (List (List Byte) × List Byte) := do
  let (k, bs) ← takeByte bs
  takeMany takeName k.toNat bs

/-- The checksum byte of an outbound packet, after the payload it covers (30_encoding.md R55). -/
def takeChecksum (payload bs : List Byte) : Except DecodeError Unit := do
  let (ck, _) ← takeByte bs
  if ck = sum8 payload then return () else .error .wrongChecksum

/-! ### The decoder -/

/-- A command: its code and its operands (30_encoding.md R47). Bytes after the last operand are not
read. -/
def decodeCommand (code : BitVec 3) (bs : List Byte) : Except DecodeError Instr :=
  match code.toNat with
  | 0 => .ok .nop
  | 1 => do
    let (rx, _) ← takeString bs
    return .ingest rx
  | 2 => .ok .drain
  | 3 => do
    let (now, bs) ← takeNat bs
    let (connected, bs) ← takeBit bs
    let (sample, _) ← takeSample bs
    return .tick now connected sample
  | 4 => do
    let (connected, _) ← takeBit bs
    return .configReq connected
  | 5 => .ok .reserved101
  | 6 => .ok .reserved110
  | _ => do
    let (cfg, _) ← takeConfig bs
    return .reset cfg

/-- The fields of a packet whose header is of type `t`. -/
def decodeFields (ord : U16Order) (now : Nat) (connected : Bool) (t : PacketType) (bs : List Byte) :
    Except DecodeError Instr :=
  match t with
  | .state => do
    let (p, _) ← takeState ord bs
    return .state p
  | .event => do
    let (id, bs) ← takeByte bs
    let (csum, _) ← takeByte bs
    return .event id csum
  | .panel => do
    let (v, bs) ← takePan ord bs
    takeChecksum (panPayload ord v) bs
    return .panel now connected v
  | .indicator => do
    let (v, bs) ← takeInd bs
    takeChecksum (indPayload v) bs
    return .indicator now connected v
  | .plot => do
    let (v, bs) ← takePlot bs
    takeChecksum (plotPayload v) bs
    return .plot now connected v
  | .configNames => do
    let (names, _) ← takeNames bs
    return .configNames connected names
  | .inputTelemetry => do
    let (v, bs) ← takeInp ord bs
    takeChecksum (inpPayload ord v) bs
    return .inputTelemetry now connected v
  | .sensorTelemetry => do
    let (v, bs) ← takeSen ord bs
    takeChecksum (senPayload ord v) bs
    return .sensorTelemetry now connected v

/-- A wire packet: its header selects its type (30_encoding.md R53, R54). Bytes after the packet are
not read. -/
def decodePacket (ord : U16Order) (now : Nat) (connected : Bool) (bs : List Byte) :
    Except DecodeError Instr := do
  let (a, bs) ← takeByte bs
  let (b, bs) ← takeByte bs
  match packetOfHeader a b with
  | some t => decodeFields ord now connected t bs
  | none => .error (.unknownHeader (a ++ b))

/-- What one port record asks for. `ord` is the latched U16_ORDER, which only a wire packet's u16
fields depend on (20_memory.md R35). -/
def decode (ord : U16Order) : PortInput → Except DecodeError Instr
  | .cmd code operands => decodeCommand code operands
  | .pkt now connected bytes => decodePacket ord now connected bytes

/-! ### The encoder -/

/-- The base-256 digits of `n`, least significant first, at most `k` of them. -/
def natDigits : Nat → Nat → List Byte
  | 0, _ => []
  | k + 1, n => if n = 0 then [] else BitVec.ofNat 8 (n % 256) :: natDigits k (n / 256)

/-- A natural operand (see `takeNat`). -/
def putNat (n : Nat) : List Byte :=
  BitVec.ofNat 8 (natDigits 255 n).length :: natDigits 255 n

/-- A one-bit operand (see `takeBit`). -/
def putBit (b : Bool) : List Byte := [if b then 1 else 0]

/-- A byte string (see `takeString`). -/
def putString (bs : List Byte) : List Byte := putNat bs.length ++ bs

/-- Six enables in a byte (see `enablesOfByte`). -/
def byteOfEnables (e : ChannelEnables) : Byte :=
  (0#2 ++ BitVec.ofBool e.cfg ++ BitVec.ofBool e.sen ++ BitVec.ofBool e.inp
    ++ BitVec.ofBool e.panel ++ BitVec.ofBool e.plot ++ BitVec.ofBool e.ind)

/-- One row of the CH_EN table (see `takeEnableRow`). -/
def putEnableRow (row : Nat × ChannelEnables) : List Byte := putNat row.1 ++ [byteOfEnables row.2]

/-- The CH_EN table (see `takeEnableTable`). -/
def putEnableTable (rows : List (Nat × ChannelEnables)) : List Byte :=
  putNat rows.length ++ rows.flatMap putEnableRow

/-- A catalog as an operand of RESET (see `takeCatalog`). -/
def putCatalog (names : List (List Byte)) : List Byte :=
  putNat names.length ++ names.flatMap putString

/-- The operand of RESET with all 13 parameters listed (see `takeConfig`). -/
def putConfig (cfg : CfgOperand) : List Byte :=
  put16 .le 0x1FFF ++ putNat cfg.c ++ putNat cfg.w ++ putNat cfg.tInd ++ putNat cfg.tPlot
    ++ putNat cfg.tRwin ++ putNat cfg.tRint ++ putNat cfg.tInp ++ putNat cfg.tSen
    ++ putBit cfg.validateCsum ++ [cfg.u16Order] ++ putNat cfg.mode ++ putEnableTable cfg.chEn
    ++ putCatalog cfg.names

/-- The sample record as an operand of TICK (see `takeSample`). -/
def putSample (s : Sample) : List Byte :=
  indPayload s.ind ++ plotPayload s.plot ++ panPayload .le s.pan ++ inpPayload .le s.inp
    ++ senPayload .le s.sen

/-- The port record of an instruction: a command's code and operands (30_encoding.md R47), a packet's
wire bytes (30_encoding.md R57 to R66). -/
def encode (ord : U16Order) : Instr → PortInput
  | .nop => .cmd 0b000 []
  | .ingest rx => .cmd 0b001 (putString rx)
  | .drain => .cmd 0b010 []
  | .tick now connected sample => .cmd 0b011 (putNat now ++ putBit connected ++ putSample sample)
  | .configReq connected => .cmd 0b100 (putBit connected)
  | .reserved101 => .cmd 0b101 []
  | .reserved110 => .cmd 0b110 []
  | .reset cfg => .cmd 0b111 (putConfig cfg)
  | .state p => .pkt 0 false (packState ord p)
  | .event id csum => .pkt 0 false (packEvent id csum)
  | .panel now connected v => .pkt now connected (packPanel ord v)
  | .indicator now connected v => .pkt now connected (packInd v)
  | .plot now connected v => .pkt now connected (packPlot v)
  | .configNames connected names => .pkt 0 connected (packCfg names)
  | .inputTelemetry now connected v => .pkt now connected (packInp ord v)
  | .sensorTelemetry now connected v => .pkt now connected (packSen ord v)

/-! ### The words of spec/opcode_table.json -/

/-- `n` bytes of `w`, the least significant first. -/
def bytesOfNat : Nat → Nat → List Byte
  | 0, _ => []
  | n + 1, w => BitVec.ofNat 8 w :: bytesOfNat n (w / 256)

/-- The number of zero bytes after a table word: no instruction whose operands are zero is longer. -/
def zeroOperands : List Byte := List.replicate 64 0

/-- The port record of an instruction whose bits are `w`, numbered as spec/opcode_table.json numbers
them. A row of at most 8 bits is a command: `cmd[2:0]` is `w[2:0]`, and `now` and all other operands
are zero. A longer row is a packet: `H = w[15:0]` with `p[0]` in bits 15..8 (30_encoding.md R53), and
the bytes after the header count on from bit 16. -/
def recordOfWord (nbits w : Nat) : PortInput :=
  if nbits ≤ 8 then .cmd (BitVec.ofNat 3 w) zeroOperands
  else .pkt 0 false
    (BitVec.ofNat 8 (w / 256) :: BitVec.ofNat 8 w
      :: (bytesOfNat (nbits / 8 - 2) (w / 65536) ++ zeroOperands))

/-- The instruction the decoder reads from a word of spec/opcode_table.json, under this hardware's
U16_ORDER. -/
def decodeTableWord (nbits w : Nat) : Option Instr :=
  match decode .le (recordOfWord nbits w) with
  | .ok i => some i
  | .error _ => none

end Sys2Proof
end

