-- ==== Sys2Proof/Machine/State.lean ====
section
/-! DEFINITION. The state of the block: the registers of 10_state.md R13, the configuration that RESET
latches (70_reset_and_hazards.md R129), and the two fields of the model's own that stand for the ports
(`out`, `pending`); the reasons a step can stop; and the state after power-on. -/

namespace Sys2Proof.Machine

/-- The storage space RB (20_memory.md R30): (position, byte) pairs. A position that is not listed holds
no value (10_state.md R16; notes/assumptions/5.md). -/
abbrev Memory := List Host.Cell

/-- The canonical form of RB: positions strictly rising. No listed byte can equal what an unlisted
position reads as, since that is no value. -/
abbrev Memory.wf (m : Memory) : Prop := m.Pairwise (fun x y => x.1 < y.1)

/-- A record on the dispatch port DISP (30_encoding.md R52). -/
inductive DispRecord where
  /-- `StateRec(p)`: the 18 bytes of an accepted State packet, for `ActuationSink.applyState`. -/
  | stateRec (p : List Byte)
  /-- `EventRec(id)`, for `handleEvent`. -/
  | eventRec (id : Byte)
  deriving DecidableEq, Repr

/-- A record on one of the three output ports (30_encoding.md R52). -/
inductive PortRecord where
  /-- On DISP. -/
  | disp (r : DispRecord)
  /-- On LOG: `(kind, p)`, for `Logger.record`. -/
  | log (kind : PacketKind) (p : List Byte)
  /-- On TX: one `TransportChannel.write(bytes)`. -/
  | tx (bytes : List Byte)
  deriving DecidableEq, Repr

/-- Why the machine stops with a fault. The block has no faults (60_exceptions.md R106). -/
inductive Fault where
  /-- Raised by DRAIN when `MemRead` meets a position below RB_CNT that holds no value, which
  60_exceptions.md R112 says cannot happen. SAFE: no state of the model's invariant raises it
  (notes/assumptions/5.md). -/
  | unheldPosition
  deriving DecidableEq, Repr

/-- Why the model gives a command no meaning. -/
inductive Refusal where
  /-- Raised by the dispatcher for an instruction without a meaning; there is none. SAFE: the run
  ends. -/
  | notModelled (mnemonic : String)
  /-- `Refuse(ReservedCommand)`, raised by the codes 101 and 110 (30_encoding.md R48,
  60_exceptions.md R112). SAFE: the run ends. -/
  | reservedCommand
  /-- `Refuse(BadConfig)`, raised by a RESET whose configuration breaks 00_scope.md R7
  (60_exceptions.md R112). SAFE: the run ends. -/
  | badConfig
  deriving DecidableEq, Repr

/-- The state of the block. -/
structure State where
  /-- The latched configuration (70_reset_and_hazards.md R129, 10_state.md R26). -/
  cfg : Cfg
  /-- `RB`: the receive buffer (10_state.md R16). -/
  rb : Memory
  /-- `RB_CNT`: how many bytes are held (10_state.md R17). -/
  rbCnt : Nat
  /-- `IND_LAST` (10_state.md R18). -/
  indLast : Nat
  /-- `PLOT_LAST` (10_state.md R18). -/
  plotLast : Nat
  /-- `INP_LAST` (10_state.md R18). -/
  inpLast : Nat
  /-- `SEN_LAST` (10_state.md R18). -/
  senLast : Nat
  /-- `PAN_LSENT_L` (10_state.md R19). -/
  panLsentL : U16
  /-- `PAN_LSENT_R` (10_state.md R19). -/
  panLsentR : U16
  /-- `PAN_PEND_L` (10_state.md R20). -/
  panPendL : U16
  /-- `PAN_PEND_R` (10_state.md R20). -/
  panPendR : U16
  /-- `PAN_WOPEN` (10_state.md R21). -/
  panWopen : Bool
  /-- `PAN_WSTART` (10_state.md R22). -/
  panWstart : Nat
  /-- `PAN_LAST_TX` (10_state.md R23). -/
  panLastTx : Nat
  /-- `PAN_FORCE` (10_state.md R24). -/
  panForce : Bool
  /-- The MODEL's field: the records emitted on the output ports, oldest first (30_encoding.md R52,
  20_memory.md R41; notes/assumptions/3.md). -/
  out : List PortRecord
  /-- The MODEL's field: what the host has put on the command port and the block has not taken yet,
  oldest first (notes/assumptions/2.md). -/
  pending : List PortInput
  deriving DecidableEq, Repr

/-- Power-on: a RESET with the configuration the platform supplies (70_reset_and_hazards.md R130), here
the reference configuration (DESIGN CHOICE where the spec leaves a parameter OPEN,
notes/assumptions/4.md). Every register has its reset value of 10_state.md R13; nothing has been
emitted and nothing is on the port. -/
def State.reset : State where
  cfg := Cfg.reference
  rb := []
  rbCnt := 0
  indLast := 0
  plotLast := 0
  inpLast := 0
  senLast := 0
  panLsentL := 0
  panLsentR := 0
  panPendL := 0
  panPendR := 0
  panWopen := false
  panWstart := 0
  panLastTx := 0
  panForce := false
  out := []
  pending := []

end Sys2Proof.Machine
end

