-- ==== Sys2Proof/Machine/Flags.lean ====
section
/-! DEFINITION. The block has no status flags (10_state.md R25). The one-bit conditions its commands
compute and act on stand here: channel enables, the timing tests, and the tests DRAIN applies at one
scan position. -/

namespace Sys2Proof.Machine

/-- One channel's bit of a row of CH_EN (41_scheduler.md R90). -/
def enabledIn (e : ChannelEnables) : Channel → Bool
  | .ind => e.ind
  | .plot => e.plot
  | .panel => e.panel
  | .inp => e.inp
  | .sen => e.sen
  | .cfg => e.cfg

/-- `CH_EN(MODE, ch)` (41_scheduler.md R90). DESIGN CHOICE: in a mode the table does not list every
channel is enabled, as in the reference configuration (notes/assumptions/8.md). -/
def channelEnabled (p : Params) (ch : Channel) : Bool :=
  match p.chEn.lookup p.mode with
  | some e => enabledIn e ch
  | none => enabledIn .all ch

/-- The strict test of a fixed-cadence channel (41_scheduler.md R93). -/
def intervalExceeded (w interval now last : Nat) : Bool := decide (interval < elapsed w now last)

/-- The Panel window that started at `start` is still open (41_scheduler.md R100). -/
def windowRunning (w tRwin now start : Nat) : Bool := decide (elapsed w now start < tRwin)

/-- The non-strict cadence test of the Panel (41_scheduler.md R100). -/
def resendDue (w tRint now lastTx : Nat) (force : Bool) : Bool :=
  force || decide (tRint ≤ elapsed w now lastTx)

/-- The checksum test of a whole inbound packet (40_decoder.md R79, 30_encoding.md R55). -/
def checksumOk (kind : PacketKind) (p : List Byte) : Bool :=
  p[checksumAt kind]? == some (sum8 ((p.drop 2).take (checksumAt kind - 2)))

/-- What DRAIN finds at one scan position: three of the error classes of 60_exceptions.md section 2,
or an acceptable candidate. -/
inductive ScanVerdict where
  /-- E1 FRAMING_NOISE: no recognised header (60_exceptions.md R107). -/
  | framingNoise
  /-- E3 INCOMPLETE_PACKET: fewer bytes than the packet's size (60_exceptions.md R109). -/
  | incompletePacket
  /-- E4 CHECKSUM_MISMATCH (60_exceptions.md R110). -/
  | checksumMismatch
  /-- The candidate passes all three tests. -/
  | accepted (kind : PacketKind)
  deriving DecidableEq, Repr

/-- The tests at one scan position, in the order of 60_exceptions.md R114: header, size, checksum. `bs`
holds the bytes from that position to the end of the buffer. -/
def scanVerdict (validate : Bool) (bs : List Byte) : ScanVerdict :=
  match bs with
  | a :: b :: _ =>
    match hdrType a b with
    | none => .framingNoise
    | some kind =>
      if bs.length < packetSize kind then .incompletePacket
      else if validate && !checksumOk kind (bs.take (packetSize kind)) then .checksumMismatch
      else .accepted kind
  | _ => .framingNoise

/-- 00_scope.md R7, but for U16_ORDER: `C >= 18`, every interval below `2^W`, and a catalog of at most
255 names of at most 255 bytes. -/
def paramsLegal (p : Params) : Bool :=
  decide (18 ≤ p.c)
  && [p.tInd, p.tPlot, p.tRwin, p.tRint, p.tInp, p.tSen].all (fun t => decide (t < 2 ^ p.w))
  && catalogFits p.names

end Sys2Proof.Machine
end

