-- ==== Sys2Proof/Machine/Ops.lean ====
section
/-! DEFINITION. The named operations over the receive buffer, the ports and the configuration, which
every meaning is made of. The block takes no exceptions and returns from none (60_exceptions.md R106,
R117, R118), so there is no such operation. -/

namespace Sys2Proof.Machine

/-! ### The receive buffer (20_memory.md section 1) -/

/-- The byte at position `a`; `none` where the position holds no value (10_state.md R16). -/
def Memory.read (m : Memory) (a : Nat) : Option Byte := m.lookup a

/-- `RB[a] <- b`, keeping positions strictly rising. -/
def Memory.write (m : Memory) (a : Nat) (b : Byte) : Memory :=
  match m with
  | [] => [(a, b)]
  | (x, y) :: rest =>
    if a < x then (a, b) :: (x, y) :: rest
    else if a = x then (a, b) :: rest
    else (x, y) :: Memory.write rest a b

/-- Discards positions `0 .. k-1` and moves every other held byte down `k` positions. -/
def Memory.shiftDown (m : Memory) (k : Nat) : Memory :=
  m.filterMap (fun cell => if cell.1 < k then none else some (cell.1 - k, cell.2))

/-- `Append(b)` (20_memory.md R31). -/
def State.append (s : State) (b : Byte) : State :=
  { s with rb := s.rb.write s.rbCnt b, rbCnt := s.rbCnt + 1 }

/-- `EvictOldest()` (20_memory.md R32). -/
def State.evictOldest (s : State) : State :=
  { s with rb := s.rb.shiftDown 1, rbCnt := s.rbCnt - 1 }

/-- `Compact(k)` (20_memory.md R33). -/
def State.compact (s : State) (k : Nat) : State :=
  { s with rb := s.rb.shiftDown k, rbCnt := s.rbCnt - k }

/-- The bytes at positions `i .. i+n-1`; `none` where one of them holds no value. -/
def Memory.readMany (m : Memory) (i : Nat) : Nat → Option (List Byte)
  | 0 => some []
  | n + 1 =>
    match m.read i, Memory.readMany m (i + 1) n with
    | some b, some bs => some (b :: bs)
    | _, _ => none

/-- `MemRead(i, n)`, legal only when `i + n <= RB_CNT` (00_scope.md R11). -/
def State.memRead (s : State) (i n : Nat) : Option (List Byte) :=
  if i + n ≤ s.rbCnt then s.rb.readMany i n else none

/-! ### The output ports (30_encoding.md R52) -/

/-- `Emit(PORT, v)` (00_scope.md R11). -/
def State.emit (s : State) (r : PortRecord) : State := { s with out := s.out ++ [r] }

/-- The records on DISP among `out`. -/
def dispRecords (out : List PortRecord) : List DispRecord :=
  out.filterMap (fun r => match r with | .disp d => some d | .log _ _ => none | .tx _ => none)

/-- The records on LOG among `out`. -/
def logRecords (out : List PortRecord) : List (PacketKind × List Byte) :=
  out.filterMap (fun r => match r with | .disp _ => none | .log k p => some (k, p) | .tx _ => none)

/-- The records on TX among `out`. -/
def txRecords (out : List PortRecord) : List (List Byte) :=
  out.filterMap (fun r => match r with | .disp _ => none | .log _ _ => none | .tx p => some p)

/-- What `Send` answers (41_scheduler.md R89). -/
inductive SendResult where
  | sent | notSent
  deriving DecidableEq, Repr

/-- `Send(pkt, connected)` (41_scheduler.md R89): the only way the scheduler transmits. -/
def State.send (s : State) (pkt : List Byte) (connected : Bool) : State × SendResult :=
  if connected then (s.emit (.tx pkt), .sent) else (s, .notSent)

/-- The DISP record of an accepted packet `p` (40_decoder.md R81, R82). The id of an Event is `p[2]`;
every packet DRAIN dispatches has one. -/
def dispRecordOf (kind : PacketKind) (p : List Byte) : DispRecord :=
  match kind with
  | .state => .stateRec p
  | .event => .eventRec (p.getD 2 0)

/-- `Dispatch(t, p)`: the DISP record, then the LOG record (40_decoder.md R81, R82). -/
def State.dispatch (s : State) (kind : PacketKind) (p : List Byte) : State :=
  (s.emit (.disp (dispRecordOf kind p))).emit (.log kind p)

/-- One whole inbound packet against the checksum test: dispatched when it passes, dropped without a
record when it fails (40_decoder.md R79, R80). -/
def State.offer (s : State) (kind : PacketKind) (p : List Byte) : State :=
  if s.cfg.validateCsum && !checksumOk kind p then s else s.dispatch kind p

/-! ### The configuration (00_scope.md R6, R7) -/

/-- The U16_ORDER a code selects; `none` for a code that is neither LE nor BE
(notes/assumptions/1.md). -/
def orderOfCode (code : Byte) : Option U16Order :=
  if code = 0 then some .le else if code = 1 then some .be else none

/-- The configuration RESET latches; `none` where the operand breaks 00_scope.md R7. -/
def latchConfig (op : CfgOperand) : Option Cfg :=
  match orderOfCode op.u16Order with
  | none => none
  | some ord => if paramsLegal op.toParams then some { op.toParams with u16Order := ord } else none

/-- The effect of RESET on the registers (70_reset_and_hazards.md R129). Records already on the ports
stay, and so does what the host has put on the command port. -/
def State.resetWith (s : State) (cfg : Cfg) : State where
  cfg := cfg
  rb := []
  rbCnt := 0
  indLast := 0
  plotLast := 0
  inpLast := 0
  senLast := 0
  panLsentL := 0
  panLsentR := 0
  panPendL := 0
  panPendR := 0
  panWopen := false
  panWstart := 0
  panLastTx := 0
  panForce := false
  out := s.out
  pending := s.pending

end Sys2Proof.Machine
end

