-- ==== Sys2Proof/Machine/Decoder.lean ====
section
/-! DEFINITION. The stream decoder: NOP, INGEST and DRAIN (40_decoder.md), and the two inbound packets
STATE and EVENT. -/

namespace Sys2Proof.Machine

/-- NOP (40_decoder.md R71). -/
def execNop (s : State) : Host.Outcome State Fault Refusal := .next s

/-- One byte of an INGEST batch: eviction first, then the append (40_decoder.md R73,
60_exceptions.md R115). -/
def State.ingestByte (s : State) (b : Byte) : State :=
  (if s.rbCnt = s.cfg.c then s.evictOldest else s).append b

/-- A whole batch, byte 0 first (40_decoder.md R73). -/
def State.ingest (s : State) (rx : List Byte) : State := rx.foldl State.ingestByte s

/-- INGEST (40_decoder.md R73). -/
def execIngest (rx : List Byte) (s : State) : Host.Outcome State Fault Refusal := .next (s.ingest rx)

/-- The scan of one pass: the first position from `i` on whose candidate passes all tests
(40_decoder.md R75, R76). `bs` holds the bytes from position `i` to the end of the buffer; the last
position is not scanned. -/
def firstAccepted (validate : Bool) : List Byte → Nat → Option (Nat × PacketKind)
  | [], _ => none
  | [_], _ => none
  | a :: b :: rest, i =>
    match scanVerdict validate (a :: b :: rest) with
    | .accepted kind => some (i, kind)
    | .framingNoise => firstAccepted validate (b :: rest) (i + 1)
    | .incompletePacket => firstAccepted validate (b :: rest) (i + 1)
    | .checksumMismatch => firstAccepted validate (b :: rest) (i + 1)

/-- The loop of DRAIN (40_decoder.md R75), `fuel` passes at most. Each accepted packet removes at least
4 bytes (R86), so RB_CNT passes are always enough (notes/assumptions/9.md). -/
def drainLoop : Nat → State → Host.Outcome State Fault Refusal
  | 0, s => .next s
  | fuel + 1, s =>
    if s.rbCnt ≤ 1 then .next s
    else match s.memRead 0 s.rbCnt with
      | none => .fault .unheldPosition
      | some held =>
        match firstAccepted s.cfg.validateCsum held 0 with
        | none => .next s
        | some (i, kind) =>
          match s.memRead i (packetSize kind) with
          | none => .fault .unheldPosition
          | some p => drainLoop fuel ((s.dispatch kind p).compact (i + packetSize kind))

/-- DRAIN (40_decoder.md R75). -/
def execDrain (s : State) : Host.Outcome State Fault Refusal := drainLoop s.rbCnt s

/-- STATE: one whole State packet meets the checksum test and is dispatched (40_decoder.md R79, R81;
notes/assumptions/6.md). -/
def execState (p : StatePacket) (s : State) : Host.Outcome State Fault Refusal :=
  .next (s.offer .state (packState s.cfg.u16Order p))

/-- EVENT: one whole Event packet meets the checksum test and is dispatched (40_decoder.md R79, R82;
notes/assumptions/6.md). -/
def execEvent (id csum : Byte) (s : State) : Host.Outcome State Fault Refusal :=
  .next (s.offer .event (packEvent id csum))

end Sys2Proof.Machine
end

