-- ==== Sys2Proof/Machine/Scheduler.lean ====
section
/-! DEFINITION. The telemetry scheduler: TICK and CONFIG_REQ (41_scheduler.md), and the six outbound
packets, each the turn of its channel. -/

namespace Sys2Proof.Machine

/-- `Fixed(last, T, now, connected, pkt)`: the state after the send, and the new last-send time
(41_scheduler.md R93). -/
def State.fixed (s : State) (last interval now : Nat) (connected : Bool) (pkt : List Byte) :
    State × Nat :=
  if intervalExceeded s.cfg.w interval now last then
    match s.send pkt connected with
    | (s', .sent) => (s', now)
    | (s', .notSent) => (s', last)
  else (s, last)

/-- The Indicator channel's turn (41_scheduler.md R92, R94). -/
def State.indicatorTurn (s : State) (now : Nat) (connected : Bool) (v : IndSample) : State :=
  if channelEnabled s.cfg.toParams .ind then
    let (s', last) := s.fixed s.indLast s.cfg.tInd now connected (packInd v)
    { s' with indLast := last }
  else s

/-- The Plot channel's turn (41_scheduler.md R92, R95). -/
def State.plotTurn (s : State) (now : Nat) (connected : Bool) (v : PlotSample) : State :=
  if channelEnabled s.cfg.toParams .plot then
    let (s', last) := s.fixed s.plotLast s.cfg.tPlot now connected (packPlot v)
    { s' with plotLast := last }
  else s

/-- The Input-telemetry channel's turn (41_scheduler.md R92, R96). -/
def State.inputTurn (s : State) (now : Nat) (connected : Bool) (v : InpSample) : State :=
  if channelEnabled s.cfg.toParams .inp then
    let (s', last) := s.fixed s.inpLast s.cfg.tInp now connected (packInp s.cfg.u16Order v)
    { s' with inpLast := last }
  else s

/-- The Sensor-telemetry channel's turn (41_scheduler.md R92, R97). -/
def State.sensorTurn (s : State) (now : Nat) (connected : Bool) (v : SenSample) : State :=
  if channelEnabled s.cfg.toParams .sen then
    let (s', last) := s.fixed s.senLast s.cfg.tSen now connected (packSen s.cfg.u16Order v)
    { s' with senLast := last }
  else s

/-- The pair a Panel change is judged against: PAN_PEND while a window is open, PAN_LSENT otherwise
(41_scheduler.md R98, R99). -/
def State.panelRef (s : State) : U16 × U16 :=
  if s.panWopen then (s.panPendL, s.panPendR) else (s.panLsentL, s.panLsentR)

/-- A change opens or restarts the window (41_scheduler.md R99). -/
def State.panelDetect (s : State) (now : Nat) (l r : U16) : State :=
  if (l, r) ≠ s.panelRef then
    { s with panPendL := l, panPendR := r, panWopen := true, panWstart := now, panForce := true }
  else s

/-- The send of an open window that still runs (41_scheduler.md R100). -/
def State.panelSend (s : State) (now : Nat) (connected : Bool) (flags : Byte) : State :=
  if resendDue s.cfg.w s.cfg.tRint now s.panLastTx s.panForce then
    match s.send (packPanel s.cfg.u16Order ⟨s.panPendL, s.panPendR, flags⟩) connected with
    | (s', .sent) => { s' with panLastTx := now, panForce := false }
    | (s', .notSent) => s'
  else s

/-- The close of a window whose time has passed (41_scheduler.md R101). -/
def State.panelClose (s : State) : State :=
  { s with panLsentL := s.panPendL, panLsentR := s.panPendR, panWopen := false, panForce := false }

/-- `PanelStep(now, connected, S)`: change detection first, then the send or the close
(41_scheduler.md R98, 60_exceptions.md R116). -/
def State.panelStep (s : State) (now : Nat) (connected : Bool) (v : PanSample) : State :=
  let s := s.panelDetect now v.l v.r
  if s.panWopen then
    if windowRunning s.cfg.w s.cfg.tRwin now s.panWstart then s.panelSend now connected v.flags
    else s.panelClose
  else s

/-- The Panel channel's turn (41_scheduler.md R92, R98). -/
def State.panelTurn (s : State) (now : Nat) (connected : Bool) (v : PanSample) : State :=
  if channelEnabled s.cfg.toParams .panel then s.panelStep now connected v else s

/-- The names channel's turn: one request (41_scheduler.md R105). -/
def State.namesTurn (s : State) (connected : Bool) (names : List (List Byte)) : State :=
  if channelEnabled s.cfg.toParams .cfg then (s.send (packCfg names) connected).1 else s

/-- The channels of one tick, in their fixed order (41_scheduler.md R92). -/
def State.tick (s : State) (now : Nat) (connected : Bool) (v : Sample) : State :=
  ((((s.indicatorTurn now connected v.ind).plotTurn now connected v.plot).panelTurn now connected
    v.pan).inputTurn now connected v.inp).sensorTurn now connected v.sen

/-- TICK (41_scheduler.md R92). -/
def execTick (now : Nat) (connected : Bool) (sample : Sample) (s : State) :
    Host.Outcome State Fault Refusal :=
  .next (s.tick (nowOnPort s.cfg.w now) connected sample)

/-- CONFIG_REQ (41_scheduler.md R105). -/
def execConfigReq (connected : Bool) (s : State) : Host.Outcome State Fault Refusal :=
  .next (s.namesTurn connected s.cfg.names)

/-- PANEL: the Panel channel's turn (41_scheduler.md R98; notes/assumptions/6.md). -/
def execPanel (now : Nat) (connected : Bool) (v : PanSample) (s : State) :
    Host.Outcome State Fault Refusal :=
  .next (s.panelTurn (nowOnPort s.cfg.w now) connected v)

/-- INDICATOR: the Indicator channel's turn (41_scheduler.md R94; notes/assumptions/6.md). -/
def execIndicator (now : Nat) (connected : Bool) (v : IndSample) (s : State) :
    Host.Outcome State Fault Refusal :=
  .next (s.indicatorTurn (nowOnPort s.cfg.w now) connected v)

/-- PLOT: the Plot channel's turn (41_scheduler.md R95; notes/assumptions/6.md). -/
def execPlot (now : Nat) (connected : Bool) (v : PlotSample) (s : State) :
    Host.Outcome State Fault Refusal :=
  .next (s.plotTurn (nowOnPort s.cfg.w now) connected v)

/-- CONFIG_NAMES: the names channel's turn with the packet's names (41_scheduler.md R105;
notes/assumptions/6.md). -/
def execConfigNames (connected : Bool) (names : List (List Byte)) (s : State) :
    Host.Outcome State Fault Refusal :=
  .next (s.namesTurn connected names)

/-- INPUT_TELEMETRY: the Input channel's turn (41_scheduler.md R96; notes/assumptions/6.md). -/
def execInputTelemetry (now : Nat) (connected : Bool) (v : InpSample) (s : State) :
    Host.Outcome State Fault Refusal :=
  .next (s.inputTurn (nowOnPort s.cfg.w now) connected v)

/-- SENSOR_TELEMETRY: the Sensor channel's turn (41_scheduler.md R97; notes/assumptions/6.md). -/
def execSensorTelemetry (now : Nat) (connected : Bool) (v : SenSample) (s : State) :
    Host.Outcome State Fault Refusal :=
  .next (s.sensorTurn (nowOnPort s.cfg.w now) connected v)

end Sys2Proof.Machine
end

