-- ==== Sys2Proof/Machine/System.lean ====
section
/-! DEFINITION. RESET (70_reset_and_hazards.md R129) and the two reserved command codes
(30_encoding.md R48). -/

namespace Sys2Proof.Machine

/-- RESET: `Refuse(BadConfig)` or the reset values under the new configuration
(70_reset_and_hazards.md R129). -/
def execReset (op : CfgOperand) (s : State) : Host.Outcome State Fault Refusal :=
  match latchConfig op with
  | none => .refused .badConfig
  | some cfg => .next (s.resetWith cfg)

/-- RESERVED_101: `Refuse(ReservedCommand)` (30_encoding.md R48). -/
def execReserved101 (_s : State) : Host.Outcome State Fault Refusal := .refused .reservedCommand

/-- RESERVED_110: `Refuse(ReservedCommand)` (30_encoding.md R48). -/
def execReserved110 (_s : State) : Host.Outcome State Fault Refusal := .refused .reservedCommand

end Sys2Proof.Machine
end

