-- ==== Sys2Proof/Machine/Dispatch.lean ====
section
/-! DEFINITION. One arm per row of spec/opcode_table.json. -/

namespace Sys2Proof.Machine

def exec (i : Instr) (s : State) : Host.Outcome State Fault Refusal :=
  match i with
  | .nop => Sys2Proof.Machine.execNop s
  | .ingest rx => Sys2Proof.Machine.execIngest rx s
  | .drain => Sys2Proof.Machine.execDrain s
  | .tick now connected sample => Sys2Proof.Machine.execTick now connected sample s
  | .configReq connected => Sys2Proof.Machine.execConfigReq connected s
  | .reserved101 => Sys2Proof.Machine.execReserved101 s
  | .reserved110 => Sys2Proof.Machine.execReserved110 s
  | .reset cfg => Sys2Proof.Machine.execReset cfg s
  | .state p => Sys2Proof.Machine.execState p s
  | .event id csum => Sys2Proof.Machine.execEvent id csum s
  | .panel now connected v => Sys2Proof.Machine.execPanel now connected v s
  | .indicator now connected v => Sys2Proof.Machine.execIndicator now connected v s
  | .plot now connected v => Sys2Proof.Machine.execPlot now connected v s
  | .configNames connected names => Sys2Proof.Machine.execConfigNames connected names s
  | .inputTelemetry now connected v => Sys2Proof.Machine.execInputTelemetry now connected v s
  | .sensorTelemetry now connected v => Sys2Proof.Machine.execSensorTelemetry now connected v s

end Sys2Proof.Machine
end

