-- ==== Sys2Proof/Machine/Port.lean ====
section
/-! DEFINITION. The command port as a queue of the model (notes/assumptions/2.md): what the next step
takes, how it is taken, and how the host puts something there. -/

namespace Sys2Proof.Machine

/-- The oldest record on the port has been taken. -/
def State.takeInput (s : State) : State := { s with pending := s.pending.tail }

/-- The host puts a record where the next step takes it. -/
def State.putInput (s : State) (r : PortInput) : State := { s with pending := r :: s.pending }

/-- One port record, run to completion: decoded under the latched U16_ORDER and executed. A record that is
no instruction is framing noise or incomplete: it is never surfaced as an error and changes nothing
(30_encoding.md R67, 60_exceptions.md R107, R109, R112). DESIGN CHOICE for a command that lacks operand
bytes (notes/assumptions/1.md). -/
def runInput (r : PortInput) (s : State) : Host.Outcome State Fault Refusal :=
  match decode s.cfg.u16Order r with
  | .ok i => exec i s
  | .error _ => .next s

/-- The three commands of one poll, in the reference order (30_encoding.md R70,
70_reset_and_hazards.md R132). -/
def pollCommands (rx : List Byte) (now : Nat) (connected : Bool) (v : Sample) : List Instr :=
  [.ingest rx, .drain, .tick now connected v]

/-- Commands issued one after the other, each run to completion before the next starts
(20_memory.md R41); a stop ends the sequence. -/
def runCommands : List Instr → State → Host.Outcome State Fault Refusal
  | [], s => .next s
  | i :: rest, s =>
    match exec i s with
    | .next t => runCommands rest t
    | .fault r => .fault r
    | .refused r => .refused r

end Sys2Proof.Machine
end

