-- ==== Sys2Proof/Machine/Step.lean ====
section
/-! DEFINITION. One step: the block takes the oldest record on its command port and runs it to
completion (00_scope.md R3). With nothing on the port it waits (20_memory.md R40). -/

namespace Sys2Proof.Machine

/-- One step of the block. -/
def step (s : State) : Host.Outcome State Fault Refusal :=
  match s.pending with
  | [] => .next s
  | r :: _ => runInput r s.takeInput

/-- The state in which the next step runs the instruction whose bits are `w`, numbered as
spec/opcode_table.json numbers them. -/
def State.withFetchWord (s : State) (nbits w : Nat) : State := s.putInput (recordOfWord nbits w)

end Sys2Proof.Machine
end

