-- ==== Sys2Proof/Safety.lean ====
section
/-! DEFINITION. What a sound state is, and the vocabulary the statements use: the bytes held in the
buffer, the two parts of the block, and two reference descriptions of DRAIN that do not run the model's
scan. -/

namespace Sys2Proof.Machine

/-- The bytes in the buffer, oldest first: `RB[0 .. RB_CNT-1]` (10_state.md R16). -/
def State.bytes (s : State) : List Byte := s.rb.map Prod.snd

/-- Exactly the positions `0 .. RB_CNT-1` hold a value (10_state.md R16). -/
abbrev State.BufferHeld (s : State) : Prop := s.rb.map Prod.fst = List.range s.rbCnt

/-- Every timestamp is a uW value (10_state.md R18, R22, R23). -/
abbrev State.TimesInRange (s : State) : Prop :=
  s.indLast < 2 ^ s.cfg.w ∧ s.plotLast < 2 ^ s.cfg.w ∧ s.inpLast < 2 ^ s.cfg.w
    ∧ s.senLast < 2 ^ s.cfg.w ∧ s.panWstart < 2 ^ s.cfg.w ∧ s.panLastTx < 2 ^ s.cfg.w

/-- While no Panel window is open no send is forced, and the pending pair has been committed
(10_state.md R20, R24). -/
abbrev State.PanelConsistent (s : State) : Prop :=
  s.panWopen = false →
    s.panForce = false ∧ s.panPendL = s.panLsentL ∧ s.panPendR = s.panLsentR

/-- The invariant of the block: a legal configuration (00_scope.md R7), a buffer of RB_CNT ≤ C held
bytes (10_state.md R16, R17), uW timestamps, and a consistent Panel. -/
abbrev State.Inv (s : State) : Prop :=
  paramsLegal s.cfg.toParams = true ∧ s.BufferHeld ∧ s.rbCnt ≤ s.cfg.c ∧ s.TimesInRange
    ∧ s.PanelConsistent

/-- The commands of the stream decoder that act on its registers (10_state.md R13). -/
inductive DecoderCommand : Instr → Prop where
  | ingest (rx : List Byte) : DecoderCommand (.ingest rx)
  | drain : DecoderCommand .drain

/-- The commands of the telemetry scheduler (10_state.md R13). -/
inductive SchedulerCommand : Instr → Prop where
  | tick (now : Nat) (connected : Bool) (v : Sample) : SchedulerCommand (.tick now connected v)
  | configReq (connected : Bool) : SchedulerCommand (.configReq connected)

/-- The scheduler's registers agree (10_state.md R13). -/
def SameScheduler (s t : State) : Prop :=
  t.indLast = s.indLast ∧ t.plotLast = s.plotLast ∧ t.inpLast = s.inpLast ∧ t.senLast = s.senLast
    ∧ t.panLsentL = s.panLsentL ∧ t.panLsentR = s.panLsentR ∧ t.panPendL = s.panPendL
    ∧ t.panPendR = s.panPendR ∧ t.panWopen = s.panWopen ∧ t.panWstart = s.panWstart
    ∧ t.panLastTx = s.panLastTx ∧ t.panForce = s.panForce

/-- The decoder's registers agree (10_state.md R13). -/
def SameDecoder (s t : State) : Prop := t.rb = s.rb ∧ t.rbCnt = s.rbCnt

/-- Each output port shows the same sequence (70_reset_and_hazards.md R132). -/
def SamePorts (s t : State) : Prop :=
  dispRecords t.out = dispRecords s.out ∧ logRecords t.out = logRecords s.out
    ∧ txRecords t.out = txRecords s.out

/-- Position `i` of `bs` holds a candidate of the kind that passes the header, size and checksum tests
(40_decoder.md R76, R77, R79), in the numbers of 30_encoding.md R57 and R60. -/
def Acceptable (validate : Bool) (bs : List Byte) (i : Nat) : PacketKind → Prop
  | .state =>
    bs[i]? = some 0xAA ∧ bs[i + 1]? = some 0x55 ∧ i + 18 ≤ bs.length
      ∧ (validate = true → bs[i + 15]? = some (sum8 ((bs.drop (i + 2)).take 13)))
  | .event =>
    bs[i]? = some 0xBB ∧ bs[i + 1]? = some 0x66 ∧ i + 4 ≤ bs.length
      ∧ (validate = true → bs[i + 3]? = bs[i + 2]?)

/-- The whole packet of the kind at position `i` (40_decoder.md R78). -/
def packetAt (bs : List Byte) (i : Nat) : PacketKind → List Byte
  | .state => (bs.drop i).take 18
  | .event => (bs.drop i).take 4

/-- The position after a packet of the kind at position `i` (40_decoder.md R84). -/
def afterPacket (i : Nat) : PacketKind → Nat
  | .state => i + 18
  | .event => i + 4

/-- DRAIN as a relation (40_decoder.md R75, R84 to R86): from the buffer `bs` the packets `ps` are
accepted, lowest position first and from the top again after each, and `rest` stays. -/
inductive Drains (validate : Bool) : List Byte → List (PacketKind × List Byte) → List Byte → Prop where
  | done (bs : List Byte) (quiet : ∀ i kind, ¬ Acceptable validate bs i kind) :
      Drains validate bs [] bs
  | accept (bs : List Byte) (i : Nat) (kind : PacketKind) (ps : List (PacketKind × List Byte))
      (rest : List Byte) (here : Acceptable validate bs i kind)
      (lowest : ∀ j, j < i → ∀ k, ¬ Acceptable validate bs j k)
      (more : Drains validate (bs.drop (afterPacket i kind)) ps rest) :
      Drains validate bs ((kind, packetAt bs i kind) :: ps) rest

/-- The scan that continues from the old position instead of starting again (40_decoder.md R85): `kept`
holds the bytes passed over since the last accepted packet. `fuel` bounds the positions. -/
def sweep (validate : Bool) : Nat → List Byte → List Byte →
    List (PacketKind × List Byte) × List Byte
  | 0, kept, bs => ([], kept ++ bs)
  | _ + 1, kept, [] => ([], kept)
  | fuel + 1, kept, b :: bs =>
    match scanVerdict validate (b :: bs) with
    | .accepted kind =>
      let (ps, rest) := sweep validate fuel [] ((b :: bs).drop (packetSize kind))
      ((kind, (b :: bs).take (packetSize kind)) :: ps, rest)
    | .framingNoise => sweep validate fuel (kept ++ [b]) bs
    | .incompletePacket => sweep validate fuel (kept ++ [b]) bs
    | .checksumMismatch => sweep validate fuel (kept ++ [b]) bs

/-- The records of one accepted packet (40_decoder.md R81, R82). -/
def packetRecords : PacketKind × List Byte → List PortRecord
  | (.state, p) => [.disp (.stateRec p), .log .state p]
  | (.event, p) => [.disp (.eventRec (p.getD 2 0)), .log .event p]

/-- The outbound headers of 30_encoding.md R54 (R68). -/
def outboundHeaders : List (List Byte) :=
  [[0xCC, 0x11], [0xCC, 0x22], [0xCC, 0x33], [0xCC, 0x44], [0xCC, 0x55], [0xCC, 0x66]]

end Sys2Proof.Machine
end

