-- ==== Sys2Proof/Certificates/Slice0/Obligations.lean ====
section
/-! DEFINITION. The statements about the block, for the provers. Each says in its docstring which part of
the spec it formalises; OBLIGATIONS.json lists them. A statement that speaks of every state quantifies
over every latched configuration with it. -/

open Sys2Proof Sys2Proof.Machine

/-! ### Power-on and RESET -/

/-- 10_state.md section 1 and 00_scope.md section 3: what every register and every parameter that the
statement names holds at power-on. That the power-on configuration is the reference one, and so that
every channel is enabled, although CH_EN is OPEN, is the model's choice (notes/assumptions/4.md and 8.md).
`W = 32`, LE and the zero reset values are what the spec marks as general knowledge or as its own decision
(notes/assumptions/12.md). T_INP, T_SEN, MODE and NAME_CATALOG are not spoken of. The empty ports are the
model's own fields (notes/assumptions/2.md and 3.md). -/
def Obligations.PowerOnRegistersHoldResetValues : Prop :=
  (∀ a, State.reset.rb.read a = none) ∧ State.reset.rbCnt = 0
    ∧ State.reset.indLast = 0 ∧ State.reset.plotLast = 0 ∧ State.reset.inpLast = 0
    ∧ State.reset.senLast = 0
    ∧ State.reset.panLsentL = 0 ∧ State.reset.panLsentR = 0
    ∧ State.reset.panPendL = 0 ∧ State.reset.panPendR = 0
    ∧ State.reset.panWopen = false ∧ State.reset.panWstart = 0
    ∧ State.reset.panLastTx = 0 ∧ State.reset.panForce = false
    ∧ State.reset.cfg.c = 64 ∧ State.reset.cfg.w = 32
    ∧ State.reset.cfg.tInd = 500 ∧ State.reset.cfg.tPlot = 50
    ∧ State.reset.cfg.tRwin = 300 ∧ State.reset.cfg.tRint = 100
    ∧ State.reset.cfg.validateCsum = true ∧ State.reset.cfg.u16Order = .le
    ∧ (∀ ch, channelEnabled State.reset.cfg.toParams ch = true)
    ∧ State.reset.out = [] ∧ State.reset.pending = []

/-- The invariant holds at power-on, under the configuration of notes/assumptions/4.md. -/
def Obligations.PowerOnSatisfiesInvariant : Prop := State.reset.Inv

/-- 70_reset_and_hazards.md section 1: RESET with a configuration that keeps 00_scope.md section 3
latches it, gives every register its reset value, emits nothing and takes no record back. The model's
choices: the code of U16_ORDER (notes/assumptions/1.md), and that commands the host has put on the port and
the block has not taken yet stay there (notes/assumptions/2.md). The zero reset values are the spec's own
decision (notes/assumptions/12.md). -/
def Obligations.ResetLatchesConfigurationAndClears : Prop :=
  ∀ (op : CfgOperand) (ord : U16Order) (s : State),
    18 ≤ op.c →
    (∀ t ∈ [op.tInd, op.tPlot, op.tRwin, op.tRint, op.tInp, op.tSen], t < 2 ^ op.w) →
    op.names.length ≤ 255 → (∀ name ∈ op.names, name.length ≤ 255) →
    (op.u16Order = 0 ∧ ord = .le ∨ op.u16Order = 1 ∧ ord = .be) →
    exec (.reset op) s = .next
      { cfg := { op.toParams with u16Order := ord }, rb := [], rbCnt := 0,
        indLast := 0, plotLast := 0, inpLast := 0, senLast := 0,
        panLsentL := 0, panLsentR := 0, panPendL := 0, panPendR := 0,
        panWopen := false, panWstart := 0, panLastTx := 0, panForce := false,
        out := s.out, pending := s.pending }

/-- 00_scope.md section 3 and 60_exceptions.md section 2: RESET is refused with BadConfig exactly when
its configuration breaks a constraint. The code of U16_ORDER is the model's (notes/assumptions/1.md). -/
def Obligations.ResetRefusedExactlyOnBadConfig : Prop :=
  ∀ (op : CfgOperand) (s : State),
    exec (.reset op) s = .refused .badConfig ↔
      (op.c < 18
        ∨ (∃ t ∈ [op.tInd, op.tPlot, op.tRwin, op.tRint, op.tInp, op.tSen], 2 ^ op.w ≤ t)
        ∨ (op.u16Order ≠ 0 ∧ op.u16Order ≠ 1)
        ∨ 255 < op.names.length ∨ ∃ name ∈ op.names, 255 < name.length)

/-- 10_state.md section 5 and 60_exceptions.md section 5: no command but RESET changes the latched
configuration. -/
def Obligations.OnlyResetChangesConfiguration : Prop :=
  ∀ (i : Instr) (s t : State), (∀ op, i ≠ .reset op) → exec i s = .next t → t.cfg = s.cfg

/-! ### NOP, the reserved codes and the command port -/

/-- 40_decoder.md R71. -/
def Obligations.NopChangesNothing : Prop :=
  (∀ ord operands, decode ord (.cmd 0b000 operands) = .ok .nop) ∧ ∀ s, exec .nop s = .next s

/-- 30_encoding.md R48: codes 101 and 110 are refused, and nothing else is refused so. -/
def Obligations.ReservedCodesAreRefused : Prop :=
  (∀ ord operands, decode ord (.cmd 0b101 operands) = .ok .reserved101
      ∧ decode ord (.cmd 0b110 operands) = .ok .reserved110)
    ∧ (∀ s, exec .reserved101 s = .refused .reservedCommand)
    ∧ (∀ s, exec .reserved110 s = .refused .reservedCommand)
    ∧ ∀ i s, exec i s = .refused .reservedCommand → i = .reserved101 ∨ i = .reserved110

/-- 60_exceptions.md sections 1 and 2: on a held buffer every instruction completes, but for the two
refusals the spec lists; there is no fault. -/
def Obligations.NoFaultAndOnlyTwoRefusals : Prop :=
  ∀ (i : Instr) (s : State), s.BufferHeld →
    (∃ t, exec i s = .next t)
      ∨ (exec i s = .refused .reservedCommand ∧ (i = .reserved101 ∨ i = .reserved110))
      ∨ (exec i s = .refused .badConfig ∧ ∃ op, i = .reset op)

/-- The command port (the model's queue, notes/assumptions/2.md; a packet as a record of its own is
notes/assumptions/6.md): the next step takes the oldest record. Where it decodes, the step is `exec` of the
decoded instruction. Where it does not, taking it changes nothing else: for a packet that is framing noise
or incomplete (30_encoding.md section 5), and for a command that lacks operand bytes that is the model's
choice (notes/assumptions/1.md). With nothing on the port the block waits. -/
def Obligations.StepRunsTheDecodedInstruction : Prop :=
  (∀ (s : State) (r : PortInput) (rest : List PortInput) (i : Instr),
      s.pending = r :: rest → decode s.cfg.u16Order r = .ok i →
      step s = exec i { s with pending := rest })
    ∧ (∀ (s : State) (r : PortInput) (rest : List PortInput) (why : DecodeError),
      s.pending = r :: rest → decode s.cfg.u16Order r = .error why →
      step s = .next { s with pending := rest })
    ∧ ∀ s : State, s.pending = [] → step s = .next s

/-! ### Encodings -/

/-- Every well-formed instruction, with every operand at every value, comes back from its port record,
in both byte orders. The layout of command operands is the model's (notes/assumptions/1.md), and so is a
packet as a record with its `now` and `connected` (notes/assumptions/6.md). -/
def Obligations.DecodeOfEncodeGivesTheInstruction : Prop :=
  ∀ (ord : U16Order) (i : Instr), i.wellFormed = true → decode ord (encode ord i) = .ok i

/-- Whatever the port record, what the decoder answers is well-formed. The layout of command operands is
the model's (notes/assumptions/1.md). -/
def Obligations.DecodedInstructionsAreWellFormed : Prop :=
  ∀ (ord : U16Order) (r : PortInput) (i : Instr), decode ord r = .ok i → i.wellFormed = true

/-- A few words of 30_encoding.md R47, R54, R60, R61 and R62, written out. The model's choices: that a
bare word of the opcode table has operands of zeros (notes/assumptions/2.md) and is read under LE
(notes/assumptions/12.md), that a packet row is an instruction with its `now` and `connected`
(notes/assumptions/6.md), and that the decoder names an undefined header, which in the spec is noise
(notes/assumptions/1.md; `StepRunsTheDecodedInstruction` says that taking it changes nothing). -/
def Obligations.SpecWordsDecode : Prop :=
  decodeTableWord 8 0x0 = some .nop
    ∧ decodeTableWord 8 0x2 = some .drain
    ∧ decodeTableWord 16 0xBB66 = some (.event 0 0)
    ∧ decode .le (.pkt 0 false [0xBB, 0x66, 0x07, 0x08]) = .ok (.event 0x07 0x08)
    ∧ decode .le (.pkt 9 true [0xCC, 0x22, 0x12, 0xF0, 0x02])
        = .ok (.indicator 9 true ⟨0x12, 0xF0⟩)
    ∧ decode .be (.pkt 9 true [0xCC, 0x11, 0x12, 0x34, 0xAB, 0xCD, 0x80, 0x3E])
        = .ok (.panel 9 true ⟨0x1234, 0xABCD, 0x80⟩)
    ∧ decode .le (.pkt 0 true [0xCC, 0x77]) = .error (.unknownHeader 0xCC77)

/-- 30_encoding.md R56, with 20_memory.md R35: the two wire bytes of a u16 in each order, how a field is
assembled from them, and that writing a field and reading it back at its offset gives its value. -/
def Obligations.SixteenBitFieldsFollowTheOrder : Prop :=
  (∀ v : U16, put16 .le v = [v.extractLsb' 0 8, v.extractLsb' 8 8]
      ∧ put16 .be v = [v.extractLsb' 8 8, v.extractLsb' 0 8])
    ∧ (∀ (p : List Byte) (o : Nat) (a b : Byte), p[o]? = some a → p[o + 1]? = some b →
        f16 .le p o = some (b ++ a) ∧ f16 .be p o = some (a ++ b))
    ∧ ∀ (ord : U16Order) (before after : List Byte) (v : U16),
        f16 ord (before ++ put16 ord v ++ after) before.length = some v

/-- 40_decoder.md R76 and 30_encoding.md R67: the decoder recognises exactly two headers. -/
def Obligations.ExactlyTwoHeadersAreRecognised : Prop :=
  ∀ a b : Byte,
    (hdrType a b = some .state ↔ a = 0xAA ∧ b = 0x55)
      ∧ (hdrType a b = some .event ↔ a = 0xBB ∧ b = 0x66)
      ∧ (hdrType a b = none ↔ ¬ (a = 0xAA ∧ b = 0x55) ∧ ¬ (a = 0xBB ∧ b = 0x66))

/-- 30_encoding.md section 2: the header and the total size of every packet. -/
def Obligations.PacketHeadersAndSizes : Prop :=
  ∀ (ord : U16Order) (st : StatePacket) (id csum : Byte) (pan : PanSample) (ind : IndSample)
    (plot : PlotSample) (names : List (List Byte)) (inp : InpSample) (sen : SenSample),
    ((packState ord st).length = 18 ∧ (packState ord st).take 2 = [0xAA, 0x55])
      ∧ ((packEvent id csum).length = 4 ∧ (packEvent id csum).take 2 = [0xBB, 0x66])
      ∧ ((packPanel ord pan).length = 8 ∧ (packPanel ord pan).take 2 = [0xCC, 0x11])
      ∧ ((packInd ind).length = 5 ∧ (packInd ind).take 2 = [0xCC, 0x22])
      ∧ ((packPlot plot).length = 7 ∧ (packPlot plot).take 2 = [0xCC, 0x33])
      ∧ ((packCfg names).length = 3 + (names.map (fun n => 1 + n.length)).sum
          ∧ (packCfg names).take 2 = [0xCC, 0x44])
      ∧ ((packInp ord inp).length = 14 ∧ (packInp ord inp).take 2 = [0xCC, 0x55])
      ∧ ((packSen ord sen).length = 12 ∧ (packSen ord sen).take 2 = [0xCC, 0x66])

/-- 40_decoder.md section 3 (R83): the fields of a State packet, read from its bytes at their offsets,
are the fields it was built from, for all of their values and both byte orders. -/
def Obligations.StateFieldsSurviveTheWire : Prop :=
  ∀ (ord : U16Order) (p : StatePacket), unpackState ord (packState ord p) = some p

/-- 41_scheduler.md R91, with the names packet of 30_encoding.md R64: the bytes each serialisation function
builds, and that each is injective in its inputs; the names packet is, for catalogs whose counts and
lengths are u8. -/
def Obligations.SerialisationIsAsGivenAndInjective : Prop :=
  (∀ v : IndSample, packInd v = [0xCC, 0x22] ++ [v.v0, v.v1] ++ [sum8 [v.v0, v.v1]])
    ∧ (∀ v : PlotSample, packPlot v = [0xCC, 0x33] ++ [v.count, v.s0, v.s1, v.s2]
        ++ [sum8 [v.count, v.s0, v.s1, v.s2]])
    ∧ (∀ ord (v : PanSample), packPanel ord v
        = [0xCC, 0x11] ++ (put16 ord v.l ++ put16 ord v.r ++ [v.flags])
          ++ [sum8 (put16 ord v.l ++ put16 ord v.r ++ [v.flags])])
    ∧ (∀ ord (v : InpSample), packInp ord v
        = [0xCC, 0x55] ++ (put16 ord v.a0 ++ put16 ord v.a1 ++ put16 ord v.a2 ++ put16 ord v.a3
            ++ [v.d0, v.d1, v.d2])
          ++ [sum8 (put16 ord v.a0 ++ put16 ord v.a1 ++ put16 ord v.a2 ++ put16 ord v.a3
            ++ [v.d0, v.d1, v.d2])])
    ∧ (∀ ord (v : SenSample), packSen ord v
        = [0xCC, 0x66] ++ (put16 ord v.temp ++ put16 ord v.imuX ++ put16 ord v.imuY
            ++ put16 ord v.imuZ ++ [v.flags])
          ++ [sum8 (put16 ord v.temp ++ put16 ord v.imuX ++ put16 ord v.imuY
            ++ put16 ord v.imuZ ++ [v.flags])])
    ∧ (∀ names, packCfg names = [0xCC, 0x44] ++ [BitVec.ofNat 8 names.length]
        ++ names.flatMap (fun name => [BitVec.ofNat 8 name.length] ++ name))
    ∧ (∀ v v', packInd v = packInd v' → v = v')
    ∧ (∀ v v', packPlot v = packPlot v' → v = v')
    ∧ (∀ ord v v', packPanel ord v = packPanel ord v' → v = v')
    ∧ (∀ ord v v', packInp ord v = packInp ord v' → v = v')
    ∧ (∀ ord v v', packSen ord v = packSen ord v' → v = v')
    ∧ ∀ names names', catalogFits names = true → catalogFits names' = true →
        packCfg names = packCfg names' → names = names'

/-! ### The receive buffer -/

/-- 20_memory.md R31, R32 and R33: what each of the three writers of RB does to the held bytes and to
RB_CNT, where its precondition holds; each keeps the buffer held and changes no other field. -/
def Obligations.BufferWritersMoveTheHeldBytes : Prop :=
  (∀ (b : Byte) (s : State), s.BufferHeld → s.rbCnt < s.cfg.c →
      (s.append b).BufferHeld ∧ (s.append b).bytes = s.bytes ++ [b]
        ∧ (s.append b).rbCnt = s.rbCnt + 1
        ∧ (s.append b).rb.read s.rbCnt = some b
        ∧ (∀ a, a < s.rbCnt → (s.append b).rb.read a = s.rb.read a)
        ∧ s.append b = { s with rb := (s.append b).rb, rbCnt := s.rbCnt + 1 })
    ∧ (∀ s : State, s.BufferHeld → 1 ≤ s.rbCnt →
      s.evictOldest.BufferHeld ∧ s.evictOldest.bytes = s.bytes.tail
        ∧ s.evictOldest.rbCnt = s.rbCnt - 1
        ∧ (∀ a, s.evictOldest.rb.read a = s.rb.read (a + 1))
        ∧ s.evictOldest = { s with rb := s.evictOldest.rb, rbCnt := s.rbCnt - 1 })
    ∧ ∀ (k : Nat) (s : State), s.BufferHeld → 1 ≤ k → k ≤ s.rbCnt →
      (s.compact k).BufferHeld ∧ (s.compact k).bytes = s.bytes.drop k
        ∧ (s.compact k).rbCnt = s.rbCnt - k
        ∧ (∀ a, (s.compact k).rb.read a = s.rb.read (a + k))
        ∧ s.compact k = { s with rb := (s.compact k).rb, rbCnt := s.rbCnt - k }

/-! ### INGEST -/

/-- 40_decoder.md R74: INGEST completes; the buffer then holds the newest bytes, `C` of them at most,
oldest first, every position past them holds no value, and no other field has changed. -/
def Obligations.IngestKeepsTheNewestBytes : Prop :=
  ∀ (rx : List Byte) (s : State), s.BufferHeld → s.rbCnt ≤ s.cfg.c → 0 < s.cfg.c →
    ∃ t, exec (.ingest rx) s = .next t
      ∧ t.rbCnt = min s.cfg.c (s.rbCnt + rx.length)
      ∧ t.bytes = (s.bytes ++ rx).drop (s.rbCnt + rx.length - min s.cfg.c (s.rbCnt + rx.length))
      ∧ t.bytes.length = t.rbCnt
      ∧ (∀ a, t.rb.read a = t.bytes[a]?)
      ∧ t = { s with rb := t.rb, rbCnt := t.rbCnt }

/-! ### DRAIN -/

/-- 40_decoder.md section 3: on a held buffer DRAIN completes, and what it accepts and leaves is what the
relation `Drains` gives; it emits the DISP and LOG records of the accepted packets in order, and changes
no other field. -/
def Obligations.DrainAcceptsLowestFirst : Prop :=
  ∀ s : State, s.BufferHeld →
    ∃ (t : State) (ps : List (PacketKind × List Byte)), exec .drain s = .next t
      ∧ Drains s.cfg.validateCsum s.bytes ps t.bytes
      ∧ t.bytes.length = t.rbCnt
      ∧ (∀ a, t.rb.read a = t.bytes[a]?)
      ∧ t = { s with rb := t.rb, rbCnt := t.rbCnt, out := s.out ++ ps.flatMap packetRecords }

/-- 40_decoder.md section 3 (R85): the scan that starts again from position 0 after each accepted packet
dispatches and leaves exactly what the scan that continues from the old position would. -/
def Obligations.RestartingScanEqualsContinuingScan : Prop :=
  ∀ s : State, s.BufferHeld →
    ∃ t, exec .drain s = .next t
      ∧ t.out = s.out ++ (sweep s.cfg.validateCsum s.rbCnt [] s.bytes).1.flatMap packetRecords
      ∧ t.bytes = (sweep s.cfg.validateCsum s.rbCnt [] s.bytes).2

/-- 40_decoder.md section 3 (R86): DRAIN ends with no acceptable candidate left, and a second DRAIN
changes nothing. -/
def Obligations.DrainLeavesNoCandidate : Prop :=
  ∀ s : State, s.BufferHeld →
    ∃ t, exec .drain s = .next t
      ∧ (∀ i kind, ¬ Acceptable s.cfg.validateCsum t.bytes i kind)
      ∧ exec .drain t = .next t

/-- 40_decoder.md section 3 (R86): each accepted packet removes at least 4 bytes. -/
def Obligations.DrainAcceptsAtMostAQuarter : Prop :=
  ∀ s : State, s.BufferHeld →
    ∃ t new, exec .drain s = .next t ∧ t.out = s.out ++ new
      ∧ 4 * (dispRecords new).length + t.rbCnt ≤ s.rbCnt

/-- 40_decoder.md section 3 (R79, R81, R82): with VALIDATE_CSUM = 1 every packet DRAIN dispatches is whole
and has the checksum of its payload; its DISP record is followed by its LOG record, and DRAIN emits
nothing else. -/
def Obligations.DrainedPacketsPassTheChecksum : Prop :=
  ∀ s : State, s.BufferHeld → s.cfg.validateCsum = true →
    ∃ (t : State) (ps : List (PacketKind × List Byte)), exec .drain s = .next t
      ∧ t.out = s.out ++ ps.flatMap packetRecords
      ∧ ∀ k p, (k, p) ∈ ps →
          (k = .state → p.length = 18 ∧ p[15]? = some (sum8 ((p.drop 2).take 13)))
            ∧ (k = .event → p.length = 4 ∧ p[3]? = p[2]?)

/-- 60_exceptions.md section 2 (R110) and 90_conflicts.md C11: a flip of any single bit in the checksummed
range or in the checksum byte of a packet that passes the test makes it fail. -/
def Obligations.SingleBitFlipFailsTheChecksum : Prop :=
  (∀ (p : List Byte) (k : Nat) (b : Fin 8), p.length = 18 → 2 ≤ k → k ≤ 15 →
      checksumOk .state p = true →
      checksumOk .state (p.set k (p.getD k 0 ^^^ BitVec.twoPow 8 b)) = false)
    ∧ ∀ (p : List Byte) (k : Nat) (b : Fin 8), p.length = 4 → 2 ≤ k → k ≤ 3 →
      checksumOk .event p = true →
      checksumOk .event (p.set k (p.getD k 0 ^^^ BitVec.twoPow 8 b)) = false

/-- 40_decoder.md section 3 (R87): noise with no acceptable position, followed by one whole acceptable
packet, yields exactly that packet and an empty buffer. -/
def Obligations.NoiseThenPacketYieldsThePacket : Prop :=
  ∀ (s : State) (noise p : List Byte) (kind : PacketKind), s.BufferHeld → s.bytes = noise ++ p →
    p.length = afterPacket 0 kind →
    Acceptable s.cfg.validateCsum (noise ++ p) noise.length kind →
    (∀ j, j < noise.length → ∀ k, ¬ Acceptable s.cfg.validateCsum (noise ++ p) j k) →
    exec .drain s
      = .next { s with rb := [], rbCnt := 0, out := s.out ++ packetRecords (kind, p) }

/-- 40_decoder.md section 3 (R86): whole acceptable packets that stand back to back in the buffer are all
dispatched, in order, in one DRAIN, and the buffer is then empty. -/
def Obligations.BackToBackPacketsAllDispatched : Prop :=
  ∀ (s : State) (ps : List (PacketKind × List Byte)), s.BufferHeld →
    s.bytes = ps.flatMap Prod.snd →
    (∀ k p, (k, p) ∈ ps → p.length = afterPacket 0 k ∧ Acceptable s.cfg.validateCsum p 0 k) →
    exec .drain s
      = .next { s with rb := [], rbCnt := 0, out := s.out ++ ps.flatMap packetRecords }

/-- 40_decoder.md section 3 (R83): a State packet with the checksum of its payload, ingested into an empty
buffer and drained, is dispatched with all its 18 bytes, and they decode to the same fields; an Event
with any id is dispatched with that id. Nothing else changes. -/
def Obligations.InboundPacketsRoundTrip : Prop :=
  ∀ s : State, s.BufferHeld → s.rbCnt = 0 → 18 ≤ s.cfg.c →
    (∀ (ord : U16Order) (p : StatePacket), p.csum = sum8 (statePayload ord p) →
        ∃ a, exec (.ingest (packState ord p)) s = .next a
          ∧ exec .drain a = .next { s with out := s.out
              ++ [.disp (.stateRec (packState ord p)), .log .state (packState ord p)] }
          ∧ unpackState ord (packState ord p) = some p)
      ∧ ∀ id : Byte,
        ∃ a, exec (.ingest [0xBB, 0x66, id, id]) s = .next a
          ∧ exec .drain a = .next { s with out := s.out
              ++ [.disp (.eventRec id), .log .event [0xBB, 0x66, id, id]] }

/-- 40_decoder.md section 3 (R80) and 70_reset_and_hazards.md section 3 (R136): an Event candidate with a
wrong checksum stays in the buffer and leaves no record; in legacy mode it is dispatched. -/
def Obligations.RejectedEventStaysUnlessLegacy : Prop :=
  ∀ (s : State) (x y : Byte), s.BufferHeld → s.bytes = [0xBB, 0x66, x, y] → x ≠ y →
    (s.cfg.validateCsum = true → exec .drain s = .next s)
      ∧ (s.cfg.validateCsum = false →
          exec .drain s = .next
            { s with rb := [], rbCnt := 0,
                     out := s.out ++ [.disp (.eventRec x), .log .event [0xBB, 0x66, x, y]] })

/-- 70_reset_and_hazards.md section 3 (R134): a complete Event after the header of an incomplete State is
accepted, and its compaction discards the State's bytes. -/
def Obligations.EventCapturesIncompleteState : Prop :=
  ∀ (s : State) (a b x : Byte), s.BufferHeld → s.cfg.validateCsum = true →
    s.bytes = [0xAA, 0x55, a, b, 0xBB, 0x66, x, x] →
    exec .drain s = .next
      { s with rb := [], rbCnt := 0,
               out := s.out ++ [.disp (.eventRec x), .log .event [0xBB, 0x66, x, x]] }

/-! ### The packet rows of the inbound types -/

/-- STATE and EVENT (notes/assumptions/6.md; 40_decoder.md section 3): one whole packet meets the checksum
test; when it passes, its DISP record and then its LOG record are emitted; when it fails, nothing
happens. No register changes. -/
def Obligations.WholeInboundPacketIsTestedAndDispatched : Prop :=
  (∀ (p : StatePacket) (s : State),
      exec (.state p) s = .next (
        if s.cfg.validateCsum = true ∧ p.csum ≠ sum8 (statePayload s.cfg.u16Order p) then s
        else { s with out := s.out ++ [.disp (.stateRec (packState s.cfg.u16Order p)),
                                       .log .state (packState s.cfg.u16Order p)] }))
    ∧ ∀ (id csum : Byte) (s : State),
      exec (.event id csum) s = .next (
        if s.cfg.validateCsum = true ∧ csum ≠ id then s
        else { s with out := s.out ++ [.disp (.eventRec id),
                                       .log .event [0xBB, 0x66, id, csum]] })

/-! ### The scheduler -/

/-- 41_scheduler.md section 1 (R88): Elapsed is the difference modulo `2^W`, of any two uW values; it is 0
from a time to itself; and across a rollover it is the delay. -/
def Obligations.ElapsedIsModular : Prop :=
  (∀ w now since : Nat, now < 2 ^ w → since < 2 ^ w →
      elapsed w now since = if since ≤ now then now - since else now + 2 ^ w - since)
    ∧ (∀ w t : Nat, elapsed w t t = 0)
    ∧ (∀ w t d : Nat, d < 2 ^ w → elapsed w ((t + d) % 2 ^ w) t = d)
    ∧ elapsed 32 0x00000010 0xFFFFFFF0 = 0x20

/-- INDICATOR (notes/assumptions/6.md and 7.md): an enabled channel sends, with its checksum, exactly when
the peer is connected and the time since its last send exceeds T_IND; a send writes IND_LAST and appends
one TX record; nothing else changes (30_encoding.md R62; 41_scheduler.md section 3). -/
def Obligations.IndicatorTurnSendsWhenDue : Prop :=
  ∀ (now : Nat) (connected : Bool) (v : IndSample) (s : State),
    exec (.indicator now connected v) s = .next (
      if channelEnabled s.cfg.toParams .ind = true ∧ connected = true
          ∧ s.cfg.tInd < elapsed s.cfg.w (now % 2 ^ s.cfg.w) s.indLast then
        { s with indLast := now % 2 ^ s.cfg.w,
                 out := s.out ++ [.tx [0xCC, 0x22, v.v0, v.v1, sum8 [v.v0, v.v1]]] }
      else s)

/-- PLOT (notes/assumptions/6.md and 7.md): as for INDICATOR, with T_PLOT and PLOT_LAST
(30_encoding.md R63; 41_scheduler.md section 3). -/
def Obligations.PlotTurnSendsWhenDue : Prop :=
  ∀ (now : Nat) (connected : Bool) (v : PlotSample) (s : State),
    exec (.plot now connected v) s = .next (
      if channelEnabled s.cfg.toParams .plot = true ∧ connected = true
          ∧ s.cfg.tPlot < elapsed s.cfg.w (now % 2 ^ s.cfg.w) s.plotLast then
        { s with plotLast := now % 2 ^ s.cfg.w,
                 out := s.out ++ [.tx [0xCC, 0x33, v.count, v.s0, v.s1, v.s2,
                                       sum8 [v.count, v.s0, v.s1, v.s2]]] }
      else s)

/-- INPUT_TELEMETRY (notes/assumptions/6.md and 7.md): as for INDICATOR, with T_INP and INP_LAST
(30_encoding.md R65; 41_scheduler.md section 3). -/
def Obligations.InputTurnSendsWhenDue : Prop :=
  ∀ (now : Nat) (connected : Bool) (v : InpSample) (s : State),
    exec (.inputTelemetry now connected v) s = .next (
      if channelEnabled s.cfg.toParams .inp = true ∧ connected = true
          ∧ s.cfg.tInp < elapsed s.cfg.w (now % 2 ^ s.cfg.w) s.inpLast then
        { s with
            inpLast := now % 2 ^ s.cfg.w,
            out := s.out ++ [.tx ([0xCC, 0x55] ++ (put16 s.cfg.u16Order v.a0
              ++ put16 s.cfg.u16Order v.a1 ++ put16 s.cfg.u16Order v.a2
              ++ put16 s.cfg.u16Order v.a3 ++ [v.d0, v.d1, v.d2])
              ++ [sum8 (put16 s.cfg.u16Order v.a0 ++ put16 s.cfg.u16Order v.a1
                ++ put16 s.cfg.u16Order v.a2 ++ put16 s.cfg.u16Order v.a3
                ++ [v.d0, v.d1, v.d2])])] }
      else s)

/-- SENSOR_TELEMETRY (notes/assumptions/6.md and 7.md): as for INDICATOR, with T_SEN and SEN_LAST
(30_encoding.md R66; 41_scheduler.md section 3). -/
def Obligations.SensorTurnSendsWhenDue : Prop :=
  ∀ (now : Nat) (connected : Bool) (v : SenSample) (s : State),
    exec (.sensorTelemetry now connected v) s = .next (
      if channelEnabled s.cfg.toParams .sen = true ∧ connected = true
          ∧ s.cfg.tSen < elapsed s.cfg.w (now % 2 ^ s.cfg.w) s.senLast then
        { s with
            senLast := now % 2 ^ s.cfg.w,
            out := s.out ++ [.tx ([0xCC, 0x66] ++ (put16 s.cfg.u16Order v.temp
              ++ put16 s.cfg.u16Order v.imuX ++ put16 s.cfg.u16Order v.imuY
              ++ put16 s.cfg.u16Order v.imuZ ++ [v.flags])
              ++ [sum8 (put16 s.cfg.u16Order v.temp ++ put16 s.cfg.u16Order v.imuX
                ++ put16 s.cfg.u16Order v.imuY ++ put16 s.cfg.u16Order v.imuZ
                ++ [v.flags])])] }
      else s)

/-- PANEL (notes/assumptions/6.md and 7.md; 41_scheduler.md section 4, 30_encoding.md section 4): a new
value opens or restarts the window, and is sent at once when the peer is connected and the window has any
length; inside an open window the pending value is sent when a send is forced or T_RINT has passed; the
first turn at or after the end of the window commits the pending value and sends nothing; a closed window
with the committed value does nothing. -/
def Obligations.PanelTurnFollowsTheWindow : Prop :=
  ∀ (now : Nat) (connected : Bool) (v : PanSample) (s : State),
    exec (.panel now connected v) s = .next (
      let n := now % 2 ^ s.cfg.w
      if channelEnabled s.cfg.toParams .panel = false then s
      else if (v.l, v.r) ≠ (if s.panWopen = true then (s.panPendL, s.panPendR)
          else (s.panLsentL, s.panLsentR)) then
        if s.cfg.tRwin = 0 then
          { s with panPendL := v.l, panPendR := v.r, panWstart := n,
                   panLsentL := v.l, panLsentR := v.r, panWopen := false, panForce := false }
        else if connected = true then
          { s with panPendL := v.l, panPendR := v.r, panWopen := true, panWstart := n,
                   panLastTx := n, panForce := false,
                   out := s.out ++ [.tx ([0xCC, 0x11] ++ (put16 s.cfg.u16Order v.l
                     ++ put16 s.cfg.u16Order v.r ++ [v.flags]) ++ [sum8 (put16 s.cfg.u16Order v.l
                     ++ put16 s.cfg.u16Order v.r ++ [v.flags])])] }
        else
          { s with panPendL := v.l, panPendR := v.r, panWopen := true, panWstart := n,
                   panForce := true }
      else if s.panWopen = false then s
      else if elapsed s.cfg.w n s.panWstart < s.cfg.tRwin then
        if connected = true
            ∧ (s.panForce = true ∨ s.cfg.tRint ≤ elapsed s.cfg.w n s.panLastTx) then
          { s with panLastTx := n, panForce := false,
                   out := s.out ++ [.tx ([0xCC, 0x11] ++ (put16 s.cfg.u16Order s.panPendL
                     ++ put16 s.cfg.u16Order s.panPendR ++ [v.flags])
                     ++ [sum8 (put16 s.cfg.u16Order s.panPendL
                     ++ put16 s.cfg.u16Order s.panPendR ++ [v.flags])])] }
        else s
      else
        { s with panLsentL := s.panPendL, panLsentR := s.panPendR, panWopen := false,
                 panForce := false })

/-- CONFIG_NAMES (notes/assumptions/6.md) and 30_encoding.md R64: an enabled channel with a connected peer
sends one names packet, count first, then each name after its length, with no checksum and no
terminator; the packet has `3 + sum (1 + length)` bytes; no register changes. -/
def Obligations.NamesPacketIsSentAsGiven : Prop :=
  ∀ (connected : Bool) (names : List (List Byte)) (s : State),
    names.length ≤ 255 → (∀ name ∈ names, name.length ≤ 255) →
    exec (.configNames connected names) s = .next (
      if channelEnabled s.cfg.toParams .cfg = true ∧ connected = true then
        { s with out := s.out ++ [.tx ([0xCC, 0x44, BitVec.ofNat 8 names.length]
            ++ names.flatMap (fun name => BitVec.ofNat 8 name.length :: name))] }
      else s)
    ∧ ([0xCC, 0x44, BitVec.ofNat 8 names.length]
        ++ names.flatMap (fun name => BitVec.ofNat 8 name.length :: name)).length
      = 3 + (names.map (fun name => 1 + name.length)).sum
    ∧ (BitVec.ofNat 8 names.length).toNat = names.length
    ∧ ∀ name ∈ names, (BitVec.ofNat 8 name.length).toNat = name.length

/-- CONFIG_REQ (41_scheduler.md section 5): one names packet with NAME_CATALOG when the channel is enabled
and the peer connected; otherwise nothing; no register changes. -/
def Obligations.ConfigRequestSendsTheCatalog : Prop :=
  ∀ (connected : Bool) (s : State),
    exec (.configReq connected) s = .next (
      if channelEnabled s.cfg.toParams .cfg = true ∧ connected = true then
        { s with out := s.out ++ [.tx ([0xCC, 0x44, BitVec.ofNat 8 s.cfg.names.length]
            ++ s.cfg.names.flatMap (fun name => BitVec.ofNat 8 name.length :: name))] }
      else s)

/-- TICK (41_scheduler.md section 2): the five channels take their turns once each, in the order IND,
PLOT, PANEL, INP, SEN, with the same `now`, the same connection and one sample record. Each turn is said
through `exec` of its channel's packet row: that such a row is the turn is the model's choice
(notes/assumptions/6.md), and so is `now` modulo `2^W` (notes/assumptions/7.md). -/
def Obligations.TickRunsTheChannelsInOrder : Prop :=
  ∀ (now : Nat) (connected : Bool) (v : Sample) (s : State),
    ∃ s1 s2 s3 s4 t,
      exec (.indicator now connected v.ind) s = .next s1
        ∧ exec (.plot now connected v.plot) s1 = .next s2
        ∧ exec (.panel now connected v.pan) s2 = .next s3
        ∧ exec (.inputTelemetry now connected v.inp) s3 = .next s4
        ∧ exec (.sensorTelemetry now connected v.sen) s4 = .next t
        ∧ exec (.tick now connected v) s = .next t

/-- TICK (41_scheduler.md section 2): the channels share no registers. Each channel's registers after the
tick are those its turn alone gives, the new TX records are those of the five turns alone, in order and
at most five, and no other field changes. Each turn is said through `exec` of its channel's packet row:
that such a row is the turn is the model's choice (notes/assumptions/6.md), and so is `now` modulo `2^W`
(notes/assumptions/7.md). -/
def Obligations.TickChannelsAreIndependent : Prop :=
  ∀ (now : Nat) (connected : Bool) (v : Sample) (s : State),
    ∃ a b c d e t na nb nc nd ne,
      exec (.indicator now connected v.ind) s = .next a ∧ a.out = s.out ++ na
        ∧ exec (.plot now connected v.plot) s = .next b ∧ b.out = s.out ++ nb
        ∧ exec (.panel now connected v.pan) s = .next c ∧ c.out = s.out ++ nc
        ∧ exec (.inputTelemetry now connected v.inp) s = .next d ∧ d.out = s.out ++ nd
        ∧ exec (.sensorTelemetry now connected v.sen) s = .next e ∧ e.out = s.out ++ ne
        ∧ na.length + nb.length + nc.length + nd.length + ne.length ≤ 5
        ∧ exec (.tick now connected v) s = .next t
        ∧ t = { s with
            indLast := a.indLast, plotLast := b.plotLast, inpLast := d.inpLast,
            senLast := e.senLast, panLsentL := c.panLsentL, panLsentR := c.panLsentR,
            panPendL := c.panPendL, panPendR := c.panPendR, panWopen := c.panWopen,
            panWstart := c.panWstart, panLastTx := c.panLastTx, panForce := c.panForce,
            out := s.out ++ na ++ nb ++ nc ++ nd ++ ne }

/-- 41_scheduler.md sections 1, 3 and 4: while the peer is disconnected nothing is sent and no send-time
register changes. -/
def Obligations.DisconnectedTickSendsNothing : Prop :=
  ∀ (now : Nat) (v : Sample) (s : State),
    ∃ t, exec (.tick now false v) s = .next t
      ∧ t.out = s.out ∧ t.indLast = s.indLast ∧ t.plotLast = s.plotLast
      ∧ t.inpLast = s.inpLast ∧ t.senLast = s.senLast ∧ t.panLastTx = s.panLastTx
      ∧ t.rb = s.rb ∧ t.rbCnt = s.rbCnt ∧ t.cfg = s.cfg

/-- 41_scheduler.md section 1 (R90): with every channel disabled, TICK and CONFIG_REQ change nothing. -/
def Obligations.DisabledChannelsDoNothing : Prop :=
  ∀ (now : Nat) (connected : Bool) (v : Sample) (s : State),
    (∀ ch, channelEnabled s.cfg.toParams ch = false) →
    exec (.tick now connected v) s = .next s ∧ exec (.configReq connected) s = .next s

/-- 70_reset_and_hazards.md section 3 (R142): after any of the four fixed-cadence channels of
41_scheduler.md section 3 has sent, no turn of it within its interval sends again or changes anything. The
turns are said through `exec` of the channels' packet rows, which is the model's choice
(notes/assumptions/6.md), and so is a time modulo `2^W` (notes/assumptions/7.md). -/
def Obligations.FixedChannelsKeepTheirDistance : Prop :=
  ∀ (now later : Nat) (connected : Bool) (s : State),
    (∀ (v v' : IndSample) (t : State), exec (.indicator now true v) s = .next t →
        t.out ≠ s.out →
        elapsed s.cfg.w (later % 2 ^ s.cfg.w) (now % 2 ^ s.cfg.w) ≤ s.cfg.tInd →
        exec (.indicator later connected v') t = .next t)
      ∧ (∀ (v v' : PlotSample) (t : State), exec (.plot now true v) s = .next t →
        t.out ≠ s.out →
        elapsed s.cfg.w (later % 2 ^ s.cfg.w) (now % 2 ^ s.cfg.w) ≤ s.cfg.tPlot →
        exec (.plot later connected v') t = .next t)
      ∧ (∀ (v v' : InpSample) (t : State), exec (.inputTelemetry now true v) s = .next t →
        t.out ≠ s.out →
        elapsed s.cfg.w (later % 2 ^ s.cfg.w) (now % 2 ^ s.cfg.w) ≤ s.cfg.tInp →
        exec (.inputTelemetry later connected v') t = .next t)
      ∧ (∀ (v v' : SenSample) (t : State), exec (.sensorTelemetry now true v) s = .next t →
        t.out ≠ s.out →
        elapsed s.cfg.w (later % 2 ^ s.cfg.w) (now % 2 ^ s.cfg.w) ≤ s.cfg.tSen →
        exec (.sensorTelemetry later connected v') t = .next t)

/-- 70_reset_and_hazards.md section 3 (R141): a Panel change whose whole window passes while the peer is
disconnected is committed without being sent, and a later connected turn with the same value sends
nothing. The turns are said through `exec` of PANEL, which is the model's choice
(notes/assumptions/6.md), and so is a time modulo `2^W` (notes/assumptions/7.md). -/
def Obligations.UnsentPanelChangeIsCommitted : Prop :=
  ∀ (t1 t2 t3 : Nat) (v v' v'' : PanSample) (s : State),
    channelEnabled s.cfg.toParams .panel = true → s.panWopen = false →
    (v.l, v.r) ≠ (s.panLsentL, s.panLsentR) → 0 < s.cfg.tRwin →
    v'.l = v.l → v'.r = v.r → v''.l = v.l → v''.r = v.r →
    s.cfg.tRwin ≤ elapsed s.cfg.w (t2 % 2 ^ s.cfg.w) (t1 % 2 ^ s.cfg.w) →
    ∃ a b, exec (.panel t1 false v) s = .next a ∧ exec (.panel t2 false v') a = .next b
      ∧ b = { s with panPendL := v.l, panPendR := v.r, panLsentL := v.l, panLsentR := v.r,
                     panWstart := t1 % 2 ^ s.cfg.w, panForce := false }
      ∧ exec (.panel t3 true v'') b = .next b

/-! ### The whole machine -/

/-- Every step from a state of the invariant that answers a next state keeps the invariant. -/
def Obligations.EveryStepKeepsTheInvariant : Prop :=
  ∀ s t : State, s.Inv → step s = .next t → t.Inv

/-- 30_encoding.md section 1 (R52): the output ports are append-only; no step takes a record back. The
three ports are one list of the model's own (notes/assumptions/3.md). -/
def Obligations.OutputPortsAreAppendOnly : Prop :=
  ∀ s t : State, step s = .next t → ∃ new, t.out = s.out ++ new

/-- 30_encoding.md section 5 (R68): whatever the instruction, every packet it puts on TX begins with one of
the six outbound headers. -/
def Obligations.OnlyOutboundHeadersReachTx : Prop :=
  ∀ (i : Instr) (s t : State), exec i s = .next t →
    ∃ new, t.out = s.out ++ new ∧ ∀ p ∈ txRecords new, p.take 2 ∈ outboundHeaders

/-- 10_state.md section 1 (R13) and 40_decoder.md section 1 (R72): INGEST and DRAIN leave the scheduler's
registers, the configuration and the TX port as they were; TICK and CONFIG_REQ leave the receive buffer,
the configuration and the DISP and LOG ports as they were. -/
def Obligations.TheTwoPartsShareNoState : Prop :=
  (∀ (i : Instr) (s t : State), DecoderCommand i → exec i s = .next t →
      SameScheduler s t ∧ t.cfg = s.cfg ∧ txRecords t.out = txRecords s.out)
    ∧ ∀ (i : Instr) (s t : State), SchedulerCommand i → exec i s = .next t →
      SameDecoder s t ∧ t.cfg = s.cfg ∧ dispRecords t.out = dispRecords s.out
        ∧ logRecords t.out = logRecords s.out

/-- 70_reset_and_hazards.md section 2 (R132): a decoder command and a scheduler command give the same
registers and the same sequence on each port in either order; only the order between ports differs. -/
def Obligations.DecoderAndSchedulerCommandsCommute : Prop :=
  ∀ (d e : Instr) (s : State), s.BufferHeld → DecoderCommand d → SchedulerCommand e →
    ∃ a b a' b',
      exec d s = .next a ∧ exec e a = .next b ∧ exec e s = .next a' ∧ exec d a' = .next b'
        ∧ { b with out := [] } = { b' with out := [] } ∧ SamePorts b b'

/-- 60_exceptions.md section 1 (R106) and 70_reset_and_hazards.md section 2 (R132): from a state of the
invariant every sequence of polls runs to its end and keeps the invariant. -/
def Obligations.PollingNeverStops : Prop :=
  ∀ (s : State) (polls : List (List Byte × Nat × Bool × Sample)), s.Inv →
    ∃ t, runCommands (polls.flatMap (fun p => pollCommands p.1 p.2.1 p.2.2.1 p.2.2.2)) s = .next t
      ∧ t.Inv

/-- 60_exceptions.md section 2 (R112): on a held buffer, whatever stands on the port, a step completes, or it
refuses one of the two cases the spec lists: a reserved code, or a RESET whose configuration breaks
00_scope.md section 3. The port queue (notes/assumptions/2.md), the operand layout with the code of
U16_ORDER, and taking a command that lacks operand bytes (notes/assumptions/1.md) are the model's choice. -/
def Obligations.OnlyTheTwoListedRefusalsExist : Prop :=
  ∀ s : State, s.BufferHeld →
    (∃ t, step s = .next t)
      ∨ ∃ (r : PortInput) (rest : List PortInput), s.pending = r :: rest ∧
        ((step s = .refused .reservedCommand
            ∧ (decode s.cfg.u16Order r = .ok .reserved101
              ∨ decode s.cfg.u16Order r = .ok .reserved110))
          ∨ (step s = .refused .badConfig
            ∧ ∃ op : CfgOperand, decode s.cfg.u16Order r = .ok (.reset op)
              ∧ (op.c < 18
                ∨ (∃ t ∈ [op.tInd, op.tPlot, op.tRwin, op.tRint, op.tInp, op.tSen], 2 ^ op.w ≤ t)
                ∨ (op.u16Order ≠ 0 ∧ op.u16Order ≠ 1)
                ∨ 255 < op.names.length ∨ ∃ name ∈ op.names, 255 < name.length)))
end

