-- ==== Sys2Proof/Laws/State.lean ====
section
/-! SUPPORT. What each named update of the state leaves in each field: one lemma per field per update,
each true by `rfl`. -/

namespace Sys2Proof.Machine

/-! ### `Append` -/

@[simp] theorem State.append_cfg (s : State) (b : Byte) : (s.append b).cfg = s.cfg := rfl
@[simp] theorem State.append_rb (s : State) (b : Byte) :
    (s.append b).rb = s.rb.write s.rbCnt b := rfl
@[simp] theorem State.append_rbCnt (s : State) (b : Byte) : (s.append b).rbCnt = s.rbCnt + 1 := rfl
@[simp] theorem State.append_indLast (s : State) (b : Byte) :
    (s.append b).indLast = s.indLast := rfl
@[simp] theorem State.append_plotLast (s : State) (b : Byte) :
    (s.append b).plotLast = s.plotLast := rfl
@[simp] theorem State.append_inpLast (s : State) (b : Byte) :
    (s.append b).inpLast = s.inpLast := rfl
@[simp] theorem State.append_senLast (s : State) (b : Byte) :
    (s.append b).senLast = s.senLast := rfl
@[simp] theorem State.append_panLsentL (s : State) (b : Byte) :
    (s.append b).panLsentL = s.panLsentL := rfl
@[simp] theorem State.append_panLsentR (s : State) (b : Byte) :
    (s.append b).panLsentR = s.panLsentR := rfl
@[simp] theorem State.append_panPendL (s : State) (b : Byte) :
    (s.append b).panPendL = s.panPendL := rfl
@[simp] theorem State.append_panPendR (s : State) (b : Byte) :
    (s.append b).panPendR = s.panPendR := rfl
@[simp] theorem State.append_panWopen (s : State) (b : Byte) :
    (s.append b).panWopen = s.panWopen := rfl
@[simp] theorem State.append_panWstart (s : State) (b : Byte) :
    (s.append b).panWstart = s.panWstart := rfl
@[simp] theorem State.append_panLastTx (s : State) (b : Byte) :
    (s.append b).panLastTx = s.panLastTx := rfl
@[simp] theorem State.append_panForce (s : State) (b : Byte) :
    (s.append b).panForce = s.panForce := rfl
@[simp] theorem State.append_out (s : State) (b : Byte) : (s.append b).out = s.out := rfl
@[simp] theorem State.append_pending (s : State) (b : Byte) :
    (s.append b).pending = s.pending := rfl

/-! ### `EvictOldest` -/

@[simp] theorem State.evictOldest_cfg (s : State) : s.evictOldest.cfg = s.cfg := rfl
@[simp] theorem State.evictOldest_rb (s : State) : s.evictOldest.rb = s.rb.shiftDown 1 := rfl
@[simp] theorem State.evictOldest_rbCnt (s : State) : s.evictOldest.rbCnt = s.rbCnt - 1 := rfl
@[simp] theorem State.evictOldest_indLast (s : State) : s.evictOldest.indLast = s.indLast := rfl
@[simp] theorem State.evictOldest_plotLast (s : State) : s.evictOldest.plotLast = s.plotLast := rfl
@[simp] theorem State.evictOldest_inpLast (s : State) : s.evictOldest.inpLast = s.inpLast := rfl
@[simp] theorem State.evictOldest_senLast (s : State) : s.evictOldest.senLast = s.senLast := rfl
@[simp] theorem State.evictOldest_panLsentL (s : State) :
    s.evictOldest.panLsentL = s.panLsentL := rfl
@[simp] theorem State.evictOldest_panLsentR (s : State) :
    s.evictOldest.panLsentR = s.panLsentR := rfl
@[simp] theorem State.evictOldest_panPendL (s : State) : s.evictOldest.panPendL = s.panPendL := rfl
@[simp] theorem State.evictOldest_panPendR (s : State) : s.evictOldest.panPendR = s.panPendR := rfl
@[simp] theorem State.evictOldest_panWopen (s : State) : s.evictOldest.panWopen = s.panWopen := rfl
@[simp] theorem State.evictOldest_panWstart (s : State) :
    s.evictOldest.panWstart = s.panWstart := rfl
@[simp] theorem State.evictOldest_panLastTx (s : State) :
    s.evictOldest.panLastTx = s.panLastTx := rfl
@[simp] theorem State.evictOldest_panForce (s : State) : s.evictOldest.panForce = s.panForce := rfl
@[simp] theorem State.evictOldest_out (s : State) : s.evictOldest.out = s.out := rfl
@[simp] theorem State.evictOldest_pending (s : State) : s.evictOldest.pending = s.pending := rfl

/-! ### `Compact` -/

@[simp] theorem State.compact_cfg (s : State) (k : Nat) : (s.compact k).cfg = s.cfg := rfl
@[simp] theorem State.compact_rb (s : State) (k : Nat) : (s.compact k).rb = s.rb.shiftDown k := rfl
@[simp] theorem State.compact_rbCnt (s : State) (k : Nat) : (s.compact k).rbCnt = s.rbCnt - k := rfl
@[simp] theorem State.compact_indLast (s : State) (k : Nat) :
    (s.compact k).indLast = s.indLast := rfl
@[simp] theorem State.compact_plotLast (s : State) (k : Nat) :
    (s.compact k).plotLast = s.plotLast := rfl
@[simp] theorem State.compact_inpLast (s : State) (k : Nat) :
    (s.compact k).inpLast = s.inpLast := rfl
@[simp] theorem State.compact_senLast (s : State) (k : Nat) :
    (s.compact k).senLast = s.senLast := rfl
@[simp] theorem State.compact_panLsentL (s : State) (k : Nat) :
    (s.compact k).panLsentL = s.panLsentL := rfl
@[simp] theorem State.compact_panLsentR (s : State) (k : Nat) :
    (s.compact k).panLsentR = s.panLsentR := rfl
@[simp] theorem State.compact_panPendL (s : State) (k : Nat) :
    (s.compact k).panPendL = s.panPendL := rfl
@[simp] theorem State.compact_panPendR (s : State) (k : Nat) :
    (s.compact k).panPendR = s.panPendR := rfl
@[simp] theorem State.compact_panWopen (s : State) (k : Nat) :
    (s.compact k).panWopen = s.panWopen := rfl
@[simp] theorem State.compact_panWstart (s : State) (k : Nat) :
    (s.compact k).panWstart = s.panWstart := rfl
@[simp] theorem State.compact_panLastTx (s : State) (k : Nat) :
    (s.compact k).panLastTx = s.panLastTx := rfl
@[simp] theorem State.compact_panForce (s : State) (k : Nat) :
    (s.compact k).panForce = s.panForce := rfl
@[simp] theorem State.compact_out (s : State) (k : Nat) : (s.compact k).out = s.out := rfl
@[simp] theorem State.compact_pending (s : State) (k : Nat) :
    (s.compact k).pending = s.pending := rfl

/-! ### `Emit` -/

@[simp] theorem State.emit_cfg (s : State) (r : PortRecord) : (s.emit r).cfg = s.cfg := rfl
@[simp] theorem State.emit_rb (s : State) (r : PortRecord) : (s.emit r).rb = s.rb := rfl
@[simp] theorem State.emit_rbCnt (s : State) (r : PortRecord) : (s.emit r).rbCnt = s.rbCnt := rfl
@[simp] theorem State.emit_indLast (s : State) (r : PortRecord) :
    (s.emit r).indLast = s.indLast := rfl
@[simp] theorem State.emit_plotLast (s : State) (r : PortRecord) :
    (s.emit r).plotLast = s.plotLast := rfl
@[simp] theorem State.emit_inpLast (s : State) (r : PortRecord) :
    (s.emit r).inpLast = s.inpLast := rfl
@[simp] theorem State.emit_senLast (s : State) (r : PortRecord) :
    (s.emit r).senLast = s.senLast := rfl
@[simp] theorem State.emit_panLsentL (s : State) (r : PortRecord) :
    (s.emit r).panLsentL = s.panLsentL := rfl
@[simp] theorem State.emit_panLsentR (s : State) (r : PortRecord) :
    (s.emit r).panLsentR = s.panLsentR := rfl
@[simp] theorem State.emit_panPendL (s : State) (r : PortRecord) :
    (s.emit r).panPendL = s.panPendL := rfl
@[simp] theorem State.emit_panPendR (s : State) (r : PortRecord) :
    (s.emit r).panPendR = s.panPendR := rfl
@[simp] theorem State.emit_panWopen (s : State) (r : PortRecord) :
    (s.emit r).panWopen = s.panWopen := rfl
@[simp] theorem State.emit_panWstart (s : State) (r : PortRecord) :
    (s.emit r).panWstart = s.panWstart := rfl
@[simp] theorem State.emit_panLastTx (s : State) (r : PortRecord) :
    (s.emit r).panLastTx = s.panLastTx := rfl
@[simp] theorem State.emit_panForce (s : State) (r : PortRecord) :
    (s.emit r).panForce = s.panForce := rfl
@[simp] theorem State.emit_out (s : State) (r : PortRecord) : (s.emit r).out = s.out ++ [r] := rfl
@[simp] theorem State.emit_pending (s : State) (r : PortRecord) :
    (s.emit r).pending = s.pending := rfl

/-! ### `Dispatch` -/

@[simp] theorem State.dispatch_cfg (s : State) (k : PacketKind) (p : List Byte) :
    (s.dispatch k p).cfg = s.cfg := rfl
@[simp] theorem State.dispatch_rb (s : State) (k : PacketKind) (p : List Byte) :
    (s.dispatch k p).rb = s.rb := rfl
@[simp] theorem State.dispatch_rbCnt (s : State) (k : PacketKind) (p : List Byte) :
    (s.dispatch k p).rbCnt = s.rbCnt := rfl
@[simp] theorem State.dispatch_indLast (s : State) (k : PacketKind) (p : List Byte) :
    (s.dispatch k p).indLast = s.indLast := rfl
@[simp] theorem State.dispatch_plotLast (s : State) (k : PacketKind) (p : List Byte) :
    (s.dispatch k p).plotLast = s.plotLast := rfl
@[simp] theorem State.dispatch_inpLast (s : State) (k : PacketKind) (p : List Byte) :
    (s.dispatch k p).inpLast = s.inpLast := rfl
@[simp] theorem State.dispatch_senLast (s : State) (k : PacketKind) (p : List Byte) :
    (s.dispatch k p).senLast = s.senLast := rfl
@[simp] theorem State.dispatch_panLsentL (s : State) (k : PacketKind) (p : List Byte) :
    (s.dispatch k p).panLsentL = s.panLsentL := rfl
@[simp] theorem State.dispatch_panLsentR (s : State) (k : PacketKind) (p : List Byte) :
    (s.dispatch k p).panLsentR = s.panLsentR := rfl
@[simp] theorem State.dispatch_panPendL (s : State) (k : PacketKind) (p : List Byte) :
    (s.dispatch k p).panPendL = s.panPendL := rfl
@[simp] theorem State.dispatch_panPendR (s : State) (k : PacketKind) (p : List Byte) :
    (s.dispatch k p).panPendR = s.panPendR := rfl
@[simp] theorem State.dispatch_panWopen (s : State) (k : PacketKind) (p : List Byte) :
    (s.dispatch k p).panWopen = s.panWopen := rfl
@[simp] theorem State.dispatch_panWstart (s : State) (k : PacketKind) (p : List Byte) :
    (s.dispatch k p).panWstart = s.panWstart := rfl
@[simp] theorem State.dispatch_panLastTx (s : State) (k : PacketKind) (p : List Byte) :
    (s.dispatch k p).panLastTx = s.panLastTx := rfl
@[simp] theorem State.dispatch_panForce (s : State) (k : PacketKind) (p : List Byte) :
    (s.dispatch k p).panForce = s.panForce := rfl
@[simp] theorem State.dispatch_out (s : State) (k : PacketKind) (p : List Byte) :
    (s.dispatch k p).out = s.out ++ [.disp (dispRecordOf k p)] ++ [.log k p] := rfl
@[simp] theorem State.dispatch_pending (s : State) (k : PacketKind) (p : List Byte) :
    (s.dispatch k p).pending = s.pending := rfl

/-! ### the close of the Panel window -/

@[simp] theorem State.panelClose_cfg (s : State) : s.panelClose.cfg = s.cfg := rfl
@[simp] theorem State.panelClose_rb (s : State) : s.panelClose.rb = s.rb := rfl
@[simp] theorem State.panelClose_rbCnt (s : State) : s.panelClose.rbCnt = s.rbCnt := rfl
@[simp] theorem State.panelClose_indLast (s : State) : s.panelClose.indLast = s.indLast := rfl
@[simp] theorem State.panelClose_plotLast (s : State) : s.panelClose.plotLast = s.plotLast := rfl
@[simp] theorem State.panelClose_inpLast (s : State) : s.panelClose.inpLast = s.inpLast := rfl
@[simp] theorem State.panelClose_senLast (s : State) : s.panelClose.senLast = s.senLast := rfl
@[simp] theorem State.panelClose_panLsentL (s : State) : s.panelClose.panLsentL = s.panPendL := rfl
@[simp] theorem State.panelClose_panLsentR (s : State) : s.panelClose.panLsentR = s.panPendR := rfl
@[simp] theorem State.panelClose_panPendL (s : State) : s.panelClose.panPendL = s.panPendL := rfl
@[simp] theorem State.panelClose_panPendR (s : State) : s.panelClose.panPendR = s.panPendR := rfl
@[simp] theorem State.panelClose_panWopen (s : State) : s.panelClose.panWopen = false := rfl
@[simp] theorem State.panelClose_panWstart (s : State) : s.panelClose.panWstart = s.panWstart := rfl
@[simp] theorem State.panelClose_panLastTx (s : State) : s.panelClose.panLastTx = s.panLastTx := rfl
@[simp] theorem State.panelClose_panForce (s : State) : s.panelClose.panForce = false := rfl
@[simp] theorem State.panelClose_out (s : State) : s.panelClose.out = s.out := rfl
@[simp] theorem State.panelClose_pending (s : State) : s.panelClose.pending = s.pending := rfl

/-! ### RESET -/

@[simp] theorem State.resetWith_cfg (s : State) (c : Cfg) : (s.resetWith c).cfg = c := rfl
@[simp] theorem State.resetWith_rb (s : State) (c : Cfg) : (s.resetWith c).rb = [] := rfl
@[simp] theorem State.resetWith_rbCnt (s : State) (c : Cfg) : (s.resetWith c).rbCnt = 0 := rfl
@[simp] theorem State.resetWith_indLast (s : State) (c : Cfg) : (s.resetWith c).indLast = 0 := rfl
@[simp] theorem State.resetWith_plotLast (s : State) (c : Cfg) : (s.resetWith c).plotLast = 0 := rfl
@[simp] theorem State.resetWith_inpLast (s : State) (c : Cfg) : (s.resetWith c).inpLast = 0 := rfl
@[simp] theorem State.resetWith_senLast (s : State) (c : Cfg) : (s.resetWith c).senLast = 0 := rfl
@[simp] theorem State.resetWith_panLsentL (s : State) (c : Cfg) :
    (s.resetWith c).panLsentL = 0 := rfl
@[simp] theorem State.resetWith_panLsentR (s : State) (c : Cfg) :
    (s.resetWith c).panLsentR = 0 := rfl
@[simp] theorem State.resetWith_panPendL (s : State) (c : Cfg) : (s.resetWith c).panPendL = 0 := rfl
@[simp] theorem State.resetWith_panPendR (s : State) (c : Cfg) : (s.resetWith c).panPendR = 0 := rfl
@[simp] theorem State.resetWith_panWopen (s : State) (c : Cfg) :
    (s.resetWith c).panWopen = false := rfl
@[simp] theorem State.resetWith_panWstart (s : State) (c : Cfg) :
    (s.resetWith c).panWstart = 0 := rfl
@[simp] theorem State.resetWith_panLastTx (s : State) (c : Cfg) :
    (s.resetWith c).panLastTx = 0 := rfl
@[simp] theorem State.resetWith_panForce (s : State) (c : Cfg) :
    (s.resetWith c).panForce = false := rfl
@[simp] theorem State.resetWith_out (s : State) (c : Cfg) : (s.resetWith c).out = s.out := rfl
@[simp] theorem State.resetWith_pending (s : State) (c : Cfg) :
    (s.resetWith c).pending = s.pending := rfl

/-! ### taking a port record -/

@[simp] theorem State.takeInput_cfg (s : State) : s.takeInput.cfg = s.cfg := rfl
@[simp] theorem State.takeInput_rb (s : State) : s.takeInput.rb = s.rb := rfl
@[simp] theorem State.takeInput_rbCnt (s : State) : s.takeInput.rbCnt = s.rbCnt := rfl
@[simp] theorem State.takeInput_indLast (s : State) : s.takeInput.indLast = s.indLast := rfl
@[simp] theorem State.takeInput_plotLast (s : State) : s.takeInput.plotLast = s.plotLast := rfl
@[simp] theorem State.takeInput_inpLast (s : State) : s.takeInput.inpLast = s.inpLast := rfl
@[simp] theorem State.takeInput_senLast (s : State) : s.takeInput.senLast = s.senLast := rfl
@[simp] theorem State.takeInput_panLsentL (s : State) : s.takeInput.panLsentL = s.panLsentL := rfl
@[simp] theorem State.takeInput_panLsentR (s : State) : s.takeInput.panLsentR = s.panLsentR := rfl
@[simp] theorem State.takeInput_panPendL (s : State) : s.takeInput.panPendL = s.panPendL := rfl
@[simp] theorem State.takeInput_panPendR (s : State) : s.takeInput.panPendR = s.panPendR := rfl
@[simp] theorem State.takeInput_panWopen (s : State) : s.takeInput.panWopen = s.panWopen := rfl
@[simp] theorem State.takeInput_panWstart (s : State) : s.takeInput.panWstart = s.panWstart := rfl
@[simp] theorem State.takeInput_panLastTx (s : State) : s.takeInput.panLastTx = s.panLastTx := rfl
@[simp] theorem State.takeInput_panForce (s : State) : s.takeInput.panForce = s.panForce := rfl
@[simp] theorem State.takeInput_out (s : State) : s.takeInput.out = s.out := rfl
@[simp] theorem State.takeInput_pending (s : State) : s.takeInput.pending = s.pending.tail := rfl

/-! ### putting a port record -/

@[simp] theorem State.putInput_cfg (s : State) (r : PortInput) : (s.putInput r).cfg = s.cfg := rfl
@[simp] theorem State.putInput_rb (s : State) (r : PortInput) : (s.putInput r).rb = s.rb := rfl
@[simp] theorem State.putInput_rbCnt (s : State) (r : PortInput) :
    (s.putInput r).rbCnt = s.rbCnt := rfl
@[simp] theorem State.putInput_indLast (s : State) (r : PortInput) :
    (s.putInput r).indLast = s.indLast := rfl
@[simp] theorem State.putInput_plotLast (s : State) (r : PortInput) :
    (s.putInput r).plotLast = s.plotLast := rfl
@[simp] theorem State.putInput_inpLast (s : State) (r : PortInput) :
    (s.putInput r).inpLast = s.inpLast := rfl
@[simp] theorem State.putInput_senLast (s : State) (r : PortInput) :
    (s.putInput r).senLast = s.senLast := rfl
@[simp] theorem State.putInput_panLsentL (s : State) (r : PortInput) :
    (s.putInput r).panLsentL = s.panLsentL := rfl
@[simp] theorem State.putInput_panLsentR (s : State) (r : PortInput) :
    (s.putInput r).panLsentR = s.panLsentR := rfl
@[simp] theorem State.putInput_panPendL (s : State) (r : PortInput) :
    (s.putInput r).panPendL = s.panPendL := rfl
@[simp] theorem State.putInput_panPendR (s : State) (r : PortInput) :
    (s.putInput r).panPendR = s.panPendR := rfl
@[simp] theorem State.putInput_panWopen (s : State) (r : PortInput) :
    (s.putInput r).panWopen = s.panWopen := rfl
@[simp] theorem State.putInput_panWstart (s : State) (r : PortInput) :
    (s.putInput r).panWstart = s.panWstart := rfl
@[simp] theorem State.putInput_panLastTx (s : State) (r : PortInput) :
    (s.putInput r).panLastTx = s.panLastTx := rfl
@[simp] theorem State.putInput_panForce (s : State) (r : PortInput) :
    (s.putInput r).panForce = s.panForce := rfl
@[simp] theorem State.putInput_out (s : State) (r : PortInput) : (s.putInput r).out = s.out := rfl
@[simp] theorem State.putInput_pending (s : State) (r : PortInput) :
    (s.putInput r).pending = r :: s.pending := rfl

end Sys2Proof.Machine
end

