-- ==== Sys2Proof/Laws/Buffer.lean ====
section
/-! SUPPORT. The laws of the receive buffer: every operation keeps its canonical form, and on a buffer
that holds the bytes `bs` at positions `0, 1, …` each operation is the list operation the rule says
(20_memory.md R31 to R33). -/

namespace Sys2Proof.Machine

/-! ### The canonical form -/

theorem Memory.write_fst_mem {m : Memory} {a : Nat} {b : Byte} {c : Host.Cell}
    (h : c ∈ Memory.write m a b) : c.1 = a ∨ c ∈ m := by
  induction m with
  | nil => simp [Memory.write] at h; simp [h]
  | cons hd tl ih =>
    obtain ⟨x, y⟩ := hd
    simp only [Memory.write] at h
    split at h
    · simp only [List.mem_cons] at h ⊢
      rcases h with rfl | h
      · simp
      · exact .inr h
    · split at h
      · simp only [List.mem_cons] at h ⊢
        rcases h with rfl | h
        · simp
        · exact .inr (.inr h)
      · simp only [List.mem_cons] at h ⊢
        rcases h with rfl | h
        · simp
        · exact (ih h).imp_right .inr

/-- A write keeps positions strictly rising. -/
theorem Memory.write_wf {m : Memory} (a : Nat) (b : Byte) (h : m.wf) : (Memory.write m a b).wf := by
  induction m with
  | nil => simp [Memory.write, Memory.wf]
  | cons hd tl ih =>
    obtain ⟨x, y⟩ := hd
    have htl := List.pairwise_cons.mp h
    simp only [Memory.write]
    split
    · rename_i hlt
      refine List.pairwise_cons.mpr ⟨?_, h⟩
      rintro ⟨c, d⟩ hc
      rcases List.mem_cons.mp hc with hc | hc
      · cases hc; exact hlt
      · exact Nat.lt_trans hlt (htl.1 _ hc)
    · split
      · subst_vars
        exact List.pairwise_cons.mpr ⟨fun c hc => htl.1 c hc, htl.2⟩
      · refine List.pairwise_cons.mpr ⟨fun c hc => ?_, ih htl.2⟩
        rcases Memory.write_fst_mem hc with hc | hc
        · show x < c.1; omega
        · exact htl.1 c hc

/-- A shift keeps positions strictly rising. -/
theorem Memory.shiftDown_wf {m : Memory} (k : Nat) (h : m.wf) : (m.shiftDown k).wf := by
  refine List.Pairwise.filterMap _ ?_ h
  intro x y hxy a ha b hb
  split at ha <;> split at hb <;> simp_all
  subst_vars
  simp
  omega

/-! ### A buffer that holds the bytes `bs` -/

/-- The cells of a buffer whose position `i` onwards holds `bs`. -/
def cellsFrom : Nat → List Byte → Memory
  | _, [] => []
  | i, b :: bs => (i, b) :: cellsFrom (i + 1) bs

/-- The cells of a buffer that holds `bs`, oldest first. -/
def cellsOf (bs : List Byte) : Memory := cellsFrom 0 bs

theorem cellsFrom_snd (i : Nat) (bs : List Byte) : (cellsFrom i bs).map Prod.snd = bs := by
  induction bs generalizing i with
  | nil => rfl
  | cons b bs ih => simp [cellsFrom, ih]

theorem cellsFrom_fst (i : Nat) (bs : List Byte) :
    (cellsFrom i bs).map Prod.fst = List.range' i bs.length := by
  induction bs generalizing i with
  | nil => rfl
  | cons b bs ih => simp [cellsFrom, ih, List.range'_succ]

theorem eq_cellsFrom {m : Memory} {i n : Nat} (h : m.map Prod.fst = List.range' i n) :
    m = cellsFrom i (m.map Prod.snd) := by
  induction m generalizing i n with
  | nil => rfl
  | cons c m ih =>
    cases n with
    | zero => simp at h
    | succ n =>
      simp only [List.map_cons, List.range'_succ, List.cons.injEq] at h
      obtain ⟨a, b⟩ := c
      simp only [List.map_cons, cellsFrom, List.cons.injEq, Prod.mk.injEq, and_true]
      exact ⟨h.1, ih h.2⟩

/-- A buffer is held exactly when its cells are those of its bytes, RB_CNT of them. -/
theorem bufferHeld_iff (s : State) :
    s.BufferHeld ↔ s.rb = cellsOf s.bytes ∧ s.bytes.length = s.rbCnt := by
  constructor
  · intro h
    rw [State.BufferHeld, List.range_eq_range'] at h
    refine ⟨eq_cellsFrom h, ?_⟩
    simpa [State.bytes] using congrArg List.length h
  · rintro ⟨h, hl⟩
    rw [State.BufferHeld, h, cellsOf, cellsFrom_fst, hl, List.range_eq_range']

theorem bufferHeld_of_cells {s : State} {bs : List Byte} (h : s.rb = cellsOf bs)
    (hl : bs.length = s.rbCnt) : s.BufferHeld ∧ s.bytes = bs := by
  have hb : s.bytes = bs := by rw [State.bytes, h, cellsOf, cellsFrom_snd]
  exact ⟨(bufferHeld_iff s).mpr ⟨by rw [hb, h], by rw [hb, hl]⟩, hb⟩

/-- The canonical form holds of every held buffer. -/
theorem wf_of_held {s : State} (h : s.BufferHeld) : s.rb.wf := by
  have := List.pairwise_lt_range (n := s.rbCnt)
  rw [← h, List.pairwise_map] at this
  exact this

/-! ### The operations on a held buffer -/

theorem write_cellsFrom (i : Nat) (bs : List Byte) (b : Byte) :
    Memory.write (cellsFrom i bs) (i + bs.length) b = cellsFrom i (bs ++ [b]) := by
  induction bs generalizing i with
  | nil => rfl
  | cons x bs ih =>
    have h1 : ¬ (i + (x :: bs).length < i) := by simp
    have h2 : ¬ (i + (x :: bs).length = i) := by simp
    simp only [cellsFrom, Memory.write, if_neg h1, if_neg h2, List.cons_append]
    rw [← ih, show i + (x :: bs).length = i + 1 + bs.length by simp; omega]

theorem write_cellsOf (bs : List Byte) (b : Byte) :
    Memory.write (cellsOf bs) bs.length b = cellsOf (bs ++ [b]) := by
  simpa [cellsOf] using write_cellsFrom 0 bs b

theorem shiftDown_cellsFrom_ge (i k : Nat) (bs : List Byte) (h : k ≤ i) :
    Memory.shiftDown (cellsFrom i bs) k = cellsFrom (i - k) bs := by
  induction bs generalizing i with
  | nil => rfl
  | cons b bs ih =>
    have h1 : ¬ i < k := by omega
    have hh := ih (i + 1) (by omega)
    rw [Memory.shiftDown] at hh ⊢
    simp only [cellsFrom, List.filterMap_cons, if_neg h1]
    rw [hh, show i + 1 - k = i - k + 1 by omega]

theorem shiftDown_cellsFrom_lt (i k : Nat) (bs : List Byte) (h : i ≤ k) :
    Memory.shiftDown (cellsFrom i bs) k = cellsOf (bs.drop (k - i)) := by
  induction bs generalizing i with
  | nil => simp [cellsFrom, cellsOf, Memory.shiftDown]
  | cons b bs ih =>
    rcases Nat.lt_or_ge i k with hlt | hge
    · have hh := ih (i + 1) hlt
      rw [Memory.shiftDown] at hh ⊢
      simp only [cellsFrom, List.filterMap_cons, if_pos hlt]
      rw [hh, show k - i = k - (i + 1) + 1 by omega, List.drop_succ_cons]
    · have : k = i := by omega
      subst this
      rw [shiftDown_cellsFrom_ge _ _ _ (Nat.le_refl _)]
      simp [cellsOf]

theorem shiftDown_cellsOf (bs : List Byte) (k : Nat) :
    Memory.shiftDown (cellsOf bs) k = cellsOf (bs.drop k) := by
  simpa [cellsOf] using shiftDown_cellsFrom_lt 0 k bs (Nat.zero_le k)

theorem read_cellsFrom (i a : Nat) (bs : List Byte) :
    Memory.read (cellsFrom i bs) a = if i ≤ a then bs[a - i]? else none := by
  induction bs generalizing i with
  | nil => simp [cellsFrom, Memory.read]
  | cons b bs ih =>
    rw [Memory.read, cellsFrom, List.lookup_cons]
    by_cases h : a = i
    · subst h; simp
    · have hb : (a == i) = false := by simpa using h
      rw [hb]
      have hh := ih (i + 1)
      rw [Memory.read] at hh
      simp only [hh]
      by_cases h2 : i ≤ a
      · rw [if_pos (by omega), if_pos h2, show a - i = (a - (i + 1)) + 1 by omega,
          List.getElem?_cons_succ]
      · rw [if_neg (by omega), if_neg h2]

/-- Reading a position of a held buffer gives the byte there, and no value past its end. -/
theorem read_cellsOf (bs : List Byte) (a : Nat) : Memory.read (cellsOf bs) a = bs[a]? := by
  simp [cellsOf, read_cellsFrom]

theorem readMany_cellsOf (bs : List Byte) (i n : Nat) (h : i + n ≤ bs.length) :
    Memory.readMany (cellsOf bs) i n = some ((bs.drop i).take n) := by
  induction n generalizing i with
  | zero => rfl
  | succ n ih =>
    have hi : i < bs.length := by omega
    rw [Memory.readMany, read_cellsOf, List.getElem?_eq_getElem hi, ih (i + 1) (by omega),
      List.drop_eq_getElem_cons hi]
    rfl

/-! ### The operations of the state on a held buffer -/

theorem append_held {s : State} (h : s.BufferHeld) (b : Byte) :
    (s.append b).BufferHeld ∧ (s.append b).bytes = s.bytes ++ [b] := by
  obtain ⟨h1, h2⟩ := (bufferHeld_iff s).mp h
  refine bufferHeld_of_cells ?_ (by simp [h2])
  rw [State.append_rb, h1, ← h2, write_cellsOf]

theorem evictOldest_held {s : State} (h : s.BufferHeld) :
    s.evictOldest.BufferHeld ∧ s.evictOldest.bytes = s.bytes.drop 1 := by
  obtain ⟨h1, h2⟩ := (bufferHeld_iff s).mp h
  refine bufferHeld_of_cells ?_ (by simp [h2])
  rw [State.evictOldest_rb, h1, shiftDown_cellsOf]

theorem compact_held {s : State} (h : s.BufferHeld) (k : Nat) :
    (s.compact k).BufferHeld ∧ (s.compact k).bytes = s.bytes.drop k := by
  obtain ⟨h1, h2⟩ := (bufferHeld_iff s).mp h
  refine bufferHeld_of_cells ?_ (by simp [h2])
  rw [State.compact_rb, h1, shiftDown_cellsOf]

/-- `MemRead(i, n)` of held positions gives their bytes. -/
theorem memRead_held {s : State} (h : s.BufferHeld) {i n : Nat} (hn : i + n ≤ s.rbCnt) :
    s.memRead i n = some ((s.bytes.drop i).take n) := by
  obtain ⟨h1, h2⟩ := (bufferHeld_iff s).mp h
  rw [State.memRead, if_pos hn, h1, readMany_cellsOf _ _ _ (h2 ▸ hn)]

theorem read_held {s : State} (h : s.BufferHeld) (a : Nat) : s.rb.read a = s.bytes[a]? := by
  rw [((bufferHeld_iff s).mp h).1, read_cellsOf]

/-- The buffer after power-on has the canonical form. -/
theorem reset_rb_wf : State.reset.rb.wf := by decide

end Sys2Proof.Machine
end

