-- ==== Sys2Proof/Laws/Ops.lean ====
section
/-! SUPPORT. What the checksum test of one whole packet and the latching of a configuration can do, each said
once. -/

namespace Sys2Proof.Machine

/-- `offer` dispatches a packet that passes the checksum test, or that is not tested, and does nothing with
any other. -/
theorem offer_cases (s : State) (kind : PacketKind) (p : List Byte) :
    ((s.cfg.validateCsum = true → checksumOk kind p = true) ∧ s.offer kind p = s.dispatch kind p)
      ∨ ((s.cfg.validateCsum = true ∧ checksumOk kind p = false) ∧ s.offer kind p = s) := by
  cases hv : s.cfg.validateCsum <;> cases hc : checksumOk kind p <;> simp [State.offer, hv, hc]

/-- The codes of U16_ORDER. -/
theorem orderOfCode_eq_some {code : Byte} {ord : U16Order} :
    orderOfCode code = some ord ↔ code = 0 ∧ ord = .le ∨ code = 1 ∧ ord = .be := by
  unfold orderOfCode
  split
  · rename_i h; subst h; cases ord <;> simp
  · rename_i h0
    split
    · rename_i h1; subst h1; cases ord <;> simp
    · rename_i h1
      constructor
      · simp
      · rintro (⟨h, _⟩ | ⟨h, _⟩)
        · exact absurd h h0
        · exact absurd h h1

/-- RESET latches exactly a legal configuration with a code that is LE or BE. -/
theorem latchConfig_eq_some {op : CfgOperand} {cfg : Cfg} :
    latchConfig op = some cfg ↔
      ∃ ord, orderOfCode op.u16Order = some ord ∧ paramsLegal op.toParams = true
        ∧ cfg = { op.toParams with u16Order := ord } := by
  unfold latchConfig
  cases h : orderOfCode op.u16Order with
  | none => simp
  | some ord => by_cases hp : paramsLegal op.toParams = true <;> simp [hp, eq_comm]

end Sys2Proof.Machine
end

