-- ==== Sys2Proof/Laws/PerInstr.lean ====
section
/-! SUPPORT. One statement for all instructions: the record that the encoder writes carries the bits that
spec/opcode_table.json fixes for the instruction's row. One lemma per constructor of `Instr`. -/

namespace Sys2Proof.Laws

open Sys2Proof

/-- The bits of an instruction's row: a three-bit command code, or the two bytes of a header value. -/
inductive RowBits where
  | code (c : BitVec 3)
  | header (a b : Byte)
  deriving DecidableEq, Repr

/-- Column "match" of spec/opcode_table.json, row by row. -/
def rowBits : Instr → RowBits
  | .nop => .code 0
  | .ingest _ => .code 1
  | .drain => .code 2
  | .tick _ _ _ => .code 3
  | .configReq _ => .code 4
  | .reserved101 => .code 5
  | .reserved110 => .code 6
  | .reset _ => .code 7
  | .state _ => .header 0xAA 0x55
  | .event _ _ => .header 0xBB 0x66
  | .panel _ _ _ => .header 0xCC 0x11
  | .indicator _ _ _ => .header 0xCC 0x22
  | .plot _ _ _ => .header 0xCC 0x33
  | .configNames _ _ => .header 0xCC 0x44
  | .inputTelemetry _ _ _ => .header 0xCC 0x55
  | .sensorTelemetry _ _ _ => .header 0xCC 0x66

/-- A port record carries the bits. -/
def Carries : RowBits → PortInput → Prop
  | .code c, .cmd code _ => code = c
  | .header a b, .pkt _ _ bytes => bytes.take 2 = [a, b]
  | .code _, .pkt _ _ _ => False
  | .header _ _, .cmd _ _ => False

/-- The record of `i` carries the bits of its row, in both byte orders (30_encoding.md R47, R54). -/
def TableMatch.Statement (i : Instr) : Prop := ∀ ord, Carries (rowBits i) (encode ord i)

theorem TableMatch.nop : TableMatch.Statement .nop := fun _ => rfl
theorem TableMatch.ingest (rx : List Byte) : TableMatch.Statement (.ingest rx) := fun _ => rfl
theorem TableMatch.drain : TableMatch.Statement .drain := fun _ => rfl
theorem TableMatch.tick (now : Nat) (connected : Bool) (sample : Sample) :
    TableMatch.Statement (.tick now connected sample) := fun _ => rfl
theorem TableMatch.configReq (connected : Bool) : TableMatch.Statement (.configReq connected) :=
  fun _ => rfl
theorem TableMatch.reserved101 : TableMatch.Statement .reserved101 := fun _ => rfl
theorem TableMatch.reserved110 : TableMatch.Statement .reserved110 := fun _ => rfl
theorem TableMatch.reset (cfg : CfgOperand) : TableMatch.Statement (.reset cfg) := fun _ => rfl
theorem TableMatch.state (p : StatePacket) : TableMatch.Statement (.state p) := fun _ => rfl
theorem TableMatch.event (id csum : Byte) : TableMatch.Statement (.event id csum) := fun _ => rfl
theorem TableMatch.panel (now : Nat) (connected : Bool) (v : PanSample) :
    TableMatch.Statement (.panel now connected v) := fun _ => rfl
theorem TableMatch.indicator (now : Nat) (connected : Bool) (v : IndSample) :
    TableMatch.Statement (.indicator now connected v) := fun _ => rfl
theorem TableMatch.plot (now : Nat) (connected : Bool) (v : PlotSample) :
    TableMatch.Statement (.plot now connected v) := fun _ => rfl
theorem TableMatch.configNames (connected : Bool) (names : List (List Byte)) :
    TableMatch.Statement (.configNames connected names) := fun _ => rfl
theorem TableMatch.inputTelemetry (now : Nat) (connected : Bool) (v : InpSample) :
    TableMatch.Statement (.inputTelemetry now connected v) := fun _ => rfl
theorem TableMatch.sensorTelemetry (now : Nat) (connected : Bool) (v : SenSample) :
    TableMatch.Statement (.sensorTelemetry now connected v) := fun _ => rfl

end Sys2Proof.Laws
end

