-- ==== Sys2Proof/Laws/Scan.lean ====
section
/-! SUPPORT. What the scan of DRAIN answers: the verdict at one position against the candidate tests
written out (`Acceptable`), and the first accepted position as the lowest one. -/

namespace Sys2Proof.Machine

theorem afterPacket_eq (i : Nat) (kind : PacketKind) : afterPacket i kind = i + packetSize kind := by
  cases kind <;> rfl

theorem packetAt_eq (bs : List Byte) (i : Nat) (kind : PacketKind) :
    packetAt bs i kind = (bs.drop i).take (packetSize kind) := by
  cases kind <;> rfl

theorem packetSize_pos (kind : PacketKind) : 4 ≤ packetSize kind := by cases kind <;> decide

/-- A candidate at position `i` is one at position 0 of the bytes from `i` on. -/
theorem acceptable_drop (validate : Bool) (bs : List Byte) (i j : Nat) (kind : PacketKind)
    (h : i ≤ bs.length) :
    Acceptable validate (bs.drop i) j kind ↔ Acceptable validate bs (i + j) kind := by
  cases kind <;>
    simp only [Acceptable, List.getElem?_drop, List.length_drop, List.drop_drop] <;>
    simp only [← Nat.add_assoc] <;>
    constructor <;> rintro ⟨h1, h2, h3, h4⟩ <;> exact ⟨h1, h2, by omega, h4⟩

theorem hdrType_state {a b : Byte} : hdrType a b = some .state ↔ a = 0xAA ∧ b = 0x55 := by
  unfold hdrType
  split
  · simp_all
  · split <;> simp_all

theorem hdrType_event {a b : Byte} : hdrType a b = some .event ↔ a = 0xBB ∧ b = 0x66 := by
  unfold hdrType
  split
  · rename_i h; obtain ⟨rfl, rfl⟩ := h; simp
  · split <;> simp_all

/-- The checksum test of an Event is that its last two bytes are equal. -/
theorem checksumOk_event (a b c d : Byte) : checksumOk .event [a, b, c, d] = (d == c) := by
  rw [Bool.eq_iff_iff]; simp [checksumOk, checksumAt, sum8]

theorem checksumOk_take_state (bs : List Byte) :
    checksumOk .state (bs.take 18) = true ↔ bs[15]? = some (sum8 ((bs.drop 2).take 13)) := by
  have h1 : ((bs.take 18).drop 2).take 13 = (bs.drop 2).take 13 := by
    rw [List.drop_take, List.take_take]; rfl
  simp [checksumOk, checksumAt, h1]

theorem checksumOk_take_event (bs : List Byte) (h : 4 ≤ bs.length) :
    checksumOk .event (bs.take 4) = true ↔ bs[3]? = bs[2]? := by
  match bs, h with
  | a :: b :: c :: d :: rest, _ => simp [checksumOk_event]

/-- The verdict at a scan position accepts exactly the acceptable candidates. -/
theorem scanVerdict_accepted (validate : Bool) (bs : List Byte) (kind : PacketKind) :
    scanVerdict validate bs = .accepted kind ↔ Acceptable validate bs 0 kind := by
  match bs with
  | [] => cases kind <;> simp [scanVerdict, Acceptable]
  | [a] => cases kind <;> simp [scanVerdict, Acceptable]
  | a :: b :: rest =>
    cases hk : hdrType a b with
    | none =>
      have hs := mt hdrType_state.mpr (by rw [hk]; simp)
      have he := mt hdrType_event.mpr (by rw [hk]; simp)
      cases kind
      · simp only [scanVerdict, hk, Acceptable]; simp; intro h1 h2; exact absurd ⟨h1, h2⟩ hs
      · simp only [scanVerdict, hk, Acceptable]; simp; intro h1 h2; exact absurd ⟨h1, h2⟩ he
    | some k =>
      simp only [scanVerdict, hk]
      cases k
      · obtain ⟨rfl, rfl⟩ := hdrType_state.mp hk
        by_cases hl : (0xAA :: 0x55 :: rest : List Byte).length < packetSize .state
        · rw [if_pos hl]
          simp only [packetSize] at hl
          cases kind <;> simp [Acceptable]
          simp at hl; omega
        · rw [if_neg hl]
          simp only [packetSize, not_lt] at hl
          have := checksumOk_take_state (0xAA :: 0x55 :: rest)
          simp only [packetSize]
          cases validate <;> cases kind <;> simp_all [Acceptable]
          split <;> simp
      · obtain ⟨rfl, rfl⟩ := hdrType_event.mp hk
        by_cases hl : (0xBB :: 0x66 :: rest : List Byte).length < packetSize .event
        · rw [if_pos hl]
          simp only [packetSize] at hl
          cases kind <;> simp [Acceptable]
          simp at hl; omega
        · rw [if_neg hl]
          simp only [packetSize, not_lt] at hl
          have := checksumOk_take_event _ hl
          simp only [packetSize]
          cases validate <;> cases kind <;> simp_all [Acceptable]
          split <;> simp

/-- No candidate stands in fewer than two bytes. -/
theorem not_acceptable_short {validate : Bool} {bs : List Byte} (h : bs.length ≤ 1) (i : Nat)
    (kind : PacketKind) : ¬ Acceptable validate bs i kind := by
  cases kind <;> simp only [Acceptable] <;> rintro ⟨_, _, h3, _⟩ <;> omega

/-- One step of the scan. -/
theorem firstAccepted_cons_cons (validate : Bool) (a b : Byte) (rest : List Byte) (i : Nat) :
    firstAccepted validate (a :: b :: rest) i =
      match scanVerdict validate (a :: b :: rest) with
      | .accepted kind => some (i, kind)
      | _ => firstAccepted validate (b :: rest) (i + 1) := by
  rw [firstAccepted]
  cases scanVerdict validate (a :: b :: rest) <;> rfl

/-- The scan answers the lowest acceptable position, and nothing only where there is none. -/
theorem firstAccepted_spec (validate : Bool) (bs : List Byte) (i : Nat) :
    match firstAccepted validate bs i with
    | some (p, kind) => ∃ j, p = i + j ∧ Acceptable validate bs j kind
        ∧ ∀ j', j' < j → ∀ k, ¬ Acceptable validate bs j' k
    | none => ∀ j k, ¬ Acceptable validate bs j k := by
  induction bs generalizing i with
  | nil => exact not_acceptable_short (by simp)
  | cons a bs ih =>
    match bs with
    | [] => exact not_acceptable_short (by simp)
    | b :: rest =>
      rw [firstAccepted_cons_cons]
      have shift : ∀ j k, Acceptable validate (a :: b :: rest) (j + 1) k
          ↔ Acceptable validate (b :: rest) j k := fun j k => by
        rw [Nat.add_comm]
        exact (acceptable_drop validate (a :: b :: rest) 1 j k (by simp)).symm
      have hv := scanVerdict_accepted validate (a :: b :: rest)
      by_cases hacc : ∃ k, scanVerdict validate (a :: b :: rest) = .accepted k
      · obtain ⟨k, hk⟩ := hacc
        rw [hk]
        exact ⟨0, rfl, (hv k).mp hk, fun _ h => absurd h (by omega)⟩
      · have h0 : ∀ k, ¬ Acceptable validate (a :: b :: rest) 0 k :=
          fun k h => hacc ⟨k, (hv k).mpr h⟩
        have hm : (match scanVerdict validate (a :: b :: rest) with
            | .accepted kind => some (i, kind)
            | _ => firstAccepted validate (b :: rest) (i + 1))
            = firstAccepted validate (b :: rest) (i + 1) := by
          split
          · rename_i k hk; exact absurd ⟨k, hk⟩ hacc
          · rfl
        rw [hm]
        have hi := ih (i + 1)
        cases hf : firstAccepted validate (b :: rest) (i + 1) with
        | none =>
          rw [hf] at hi
          intro j k
          cases j with
          | zero => exact h0 k
          | succ j => rw [shift]; exact hi j k
        | some pk =>
          rw [hf] at hi
          obtain ⟨p, kind⟩ := pk
          obtain ⟨j, rfl, hj, hlow⟩ := hi
          refine ⟨j + 1, by omega, (shift j kind).mpr hj, fun j' hj' k => ?_⟩
          cases j' with
          | zero => exact h0 k
          | succ j' => rw [shift]; exact hlow j' (by omega) k

/-- At one position at most one kind is acceptable. -/
theorem acceptable_kind_unique {validate : Bool} {bs : List Byte} {i : Nat} {k k' : PacketKind}
    (h : Acceptable validate bs i k) (h' : Acceptable validate bs i k') : k = k' := by
  cases k <;> cases k' <;> simp_all [Acceptable]

theorem acceptable_length {validate : Bool} {bs : List Byte} {i : Nat} {k : PacketKind}
    (h : Acceptable validate bs i k) : i + packetSize k ≤ bs.length := by
  cases k <;> exact h.2.2.1

/-! ### One pass of DRAIN -/

theorem packetRecords_eq (kind : PacketKind) (p : List Byte) :
    packetRecords (kind, p) = [.disp (dispRecordOf kind p), .log kind p] := by
  cases kind <;> rfl

/-- The state after one accepted packet. -/
def State.consume (s : State) (i : Nat) (kind : PacketKind) : State :=
  (s.dispatch kind (packetAt s.bytes i kind)).compact (afterPacket i kind)

theorem consume_held {s : State} (h : s.BufferHeld) (i : Nat) (kind : PacketKind) :
    (s.consume i kind).BufferHeld
      ∧ (s.consume i kind).bytes = s.bytes.drop (afterPacket i kind) :=
  compact_held (s := s.dispatch kind (packetAt s.bytes i kind)) h (afterPacket i kind)

/-- One pass of the loop on a held buffer: it ends with no candidate left, or consumes the lowest one
and goes on. -/
theorem drainLoop_succ {s : State} (h : s.BufferHeld) (fuel : Nat) :
    (drainLoop (fuel + 1) s = .next s
        ∧ ∀ i k, ¬ Acceptable s.cfg.validateCsum s.bytes i k)
      ∨ ∃ i kind, drainLoop (fuel + 1) s = drainLoop fuel (s.consume i kind)
          ∧ Acceptable s.cfg.validateCsum s.bytes i kind
          ∧ ∀ j, j < i → ∀ k, ¬ Acceptable s.cfg.validateCsum s.bytes j k := by
  have hlen := ((bufferHeld_iff s).mp h).2
  rw [drainLoop]
  by_cases hc : s.rbCnt ≤ 1
  · rw [if_pos hc]
    exact .inl ⟨rfl, not_acceptable_short (by omega)⟩
  · rw [if_neg hc, memRead_held h (by omega)]
    have hall : (s.bytes.drop 0).take s.rbCnt = s.bytes := by simp [← hlen]
    simp only [hall]
    have hs := firstAccepted_spec s.cfg.validateCsum s.bytes 0
    cases hf : firstAccepted s.cfg.validateCsum s.bytes 0 with
    | none => rw [hf] at hs; exact .inl ⟨rfl, hs⟩
    | some pk =>
      obtain ⟨p, kind⟩ := pk
      rw [hf] at hs
      obtain ⟨j, rfl, hj, hlow⟩ := hs
      have := acceptable_length hj
      simp only [Nat.zero_add] at *
      rw [memRead_held h (by omega)]
      refine .inr ⟨j, kind, ?_, hj, hlow⟩
      simp only [State.consume, packetAt_eq, afterPacket_eq]

end Sys2Proof.Machine
end

