-- ==== Sys2Proof/Laws/Scheduler.lean ====
section
/-! SUPPORT. What the shared operations of the scheduler can do, each said once: `Send`, `Fixed` and the
three parts of `PanelStep`; and, for each channel's turn, which fields it leaves alone. -/

namespace Sys2Proof.Machine

/-- `Send` emits one TX record exactly when the peer is connected. -/
theorem send_eq (s : State) (pkt : List Byte) (connected : Bool) :
    s.send pkt connected
      = if connected = true then (s.emit (.tx pkt), .sent) else (s, .notSent) := rfl

/-- `Fixed` sends and answers `now`, or does nothing and answers `last`. -/
theorem fixed_cases (s : State) (last interval now : Nat) (connected : Bool) (pkt : List Byte) :
    ((connected = true ∧ interval < elapsed s.cfg.w now last)
        ∧ s.fixed last interval now connected pkt = (s.emit (.tx pkt), now))
      ∨ (¬ (connected = true ∧ interval < elapsed s.cfg.w now last)
        ∧ s.fixed last interval now connected pkt = (s, last)) := by
  by_cases h : interval < elapsed s.cfg.w now last <;> cases connected <;>
    simp [State.fixed, intervalExceeded, State.send, h]

/-- Change detection opens or restarts the window, or does nothing. -/
theorem panelDetect_cases (s : State) (now : Nat) (l r : U16) :
    ((l, r) ≠ s.panelRef
        ∧ s.panelDetect now l r = { s with panPendL := l, panPendR := r, panWopen := true,
                                           panWstart := now, panForce := true })
      ∨ ((l, r) = s.panelRef ∧ s.panelDetect now l r = s) := by
  by_cases h : (l, r) = s.panelRef
  · exact .inr ⟨h, by simp [State.panelDetect, h]⟩
  · exact .inl ⟨h, by simp [State.panelDetect, h]⟩

/-- The send of an open window: one TX record with the pending pair, or nothing. -/
theorem panelSend_cases (s : State) (now : Nat) (connected : Bool) (flags : Byte) :
    ((connected = true ∧ (s.panForce = true ∨ s.cfg.tRint ≤ elapsed s.cfg.w now s.panLastTx))
        ∧ s.panelSend now connected flags
          = { s.emit (.tx (packPanel s.cfg.u16Order ⟨s.panPendL, s.panPendR, flags⟩)) with
              panLastTx := now, panForce := false })
      ∨ (¬ (connected = true
            ∧ (s.panForce = true ∨ s.cfg.tRint ≤ elapsed s.cfg.w now s.panLastTx))
        ∧ s.panelSend now connected flags = s) := by
  by_cases h : s.panForce = true ∨ s.cfg.tRint ≤ elapsed s.cfg.w now s.panLastTx <;>
    cases connected <;> simp [State.panelSend, resendDue, State.send, h]

/-- An operation that touches only the output ports, by TX records, and the scheduler's registers. -/
def SchedulerOnly (s t : State) : Prop :=
  t.cfg = s.cfg ∧ t.rb = s.rb ∧ t.rbCnt = s.rbCnt ∧ t.pending = s.pending
    ∧ ∃ pkts : List (List Byte), t.out = s.out ++ pkts.map PortRecord.tx

theorem SchedulerOnly.refl (s : State) : SchedulerOnly s s :=
  ⟨rfl, rfl, rfl, rfl, [], by simp⟩

theorem SchedulerOnly.trans {s t u : State} (h : SchedulerOnly s t) (h' : SchedulerOnly t u) :
    SchedulerOnly s u := by
  obtain ⟨h1, h2, h3, h4, p, h5⟩ := h
  obtain ⟨g1, g2, g3, g4, q, g5⟩ := h'
  exact ⟨g1.trans h1, g2.trans h2, g3.trans h3, g4.trans h4, p ++ q, by simp [g5, h5]⟩

theorem SchedulerOnly.one {s t : State} (pkt : List Byte) (h1 : t.cfg = s.cfg) (h2 : t.rb = s.rb)
    (h3 : t.rbCnt = s.rbCnt) (h4 : t.pending = s.pending) (h5 : t.out = s.out ++ [.tx pkt]) :
    SchedulerOnly s t :=
  ⟨h1, h2, h3, h4, [pkt], h5⟩

theorem indicatorTurn_frame (s : State) (now : Nat) (connected : Bool) (v : IndSample) :
    SchedulerOnly s (s.indicatorTurn now connected v) := by
  unfold State.indicatorTurn
  split
  · rcases fixed_cases s s.indLast s.cfg.tInd now connected (packInd v) with ⟨_, h⟩ | ⟨_, h⟩ <;>
      rw [h]
    · exact .one (packInd v) rfl rfl rfl rfl rfl
    · exact .refl s
  · exact .refl s

theorem plotTurn_frame (s : State) (now : Nat) (connected : Bool) (v : PlotSample) :
    SchedulerOnly s (s.plotTurn now connected v) := by
  unfold State.plotTurn
  split
  · rcases fixed_cases s s.plotLast s.cfg.tPlot now connected (packPlot v) with ⟨_, h⟩ | ⟨_, h⟩ <;>
      rw [h]
    · exact .one (packPlot v) rfl rfl rfl rfl rfl
    · exact .refl s
  · exact .refl s

theorem inputTurn_frame (s : State) (now : Nat) (connected : Bool) (v : InpSample) :
    SchedulerOnly s (s.inputTurn now connected v) := by
  unfold State.inputTurn
  split
  · rcases fixed_cases s s.inpLast s.cfg.tInp now connected (packInp s.cfg.u16Order v)
      with ⟨_, h⟩ | ⟨_, h⟩ <;> rw [h]
    · exact .one (packInp s.cfg.u16Order v) rfl rfl rfl rfl rfl
    · exact .refl s
  · exact .refl s

theorem sensorTurn_frame (s : State) (now : Nat) (connected : Bool) (v : SenSample) :
    SchedulerOnly s (s.sensorTurn now connected v) := by
  unfold State.sensorTurn
  split
  · rcases fixed_cases s s.senLast s.cfg.tSen now connected (packSen s.cfg.u16Order v)
      with ⟨_, h⟩ | ⟨_, h⟩ <;> rw [h]
    · exact .one (packSen s.cfg.u16Order v) rfl rfl rfl rfl rfl
    · exact .refl s
  · exact .refl s

theorem panelDetect_frame (s : State) (now : Nat) (l r : U16) :
    SchedulerOnly s (s.panelDetect now l r) := by
  rcases panelDetect_cases s now l r with ⟨_, h⟩ | ⟨_, h⟩ <;> rw [h]
  · exact ⟨rfl, rfl, rfl, rfl, [], by simp⟩
  · exact .refl s

theorem panelSend_frame (s : State) (now : Nat) (connected : Bool) (flags : Byte) :
    SchedulerOnly s (s.panelSend now connected flags) := by
  rcases panelSend_cases s now connected flags with ⟨_, h⟩ | ⟨_, h⟩ <;> rw [h]
  · exact .one _ rfl rfl rfl rfl rfl
  · exact .refl s

theorem panelTurn_frame (s : State) (now : Nat) (connected : Bool) (v : PanSample) :
    SchedulerOnly s (s.panelTurn now connected v) := by
  unfold State.panelTurn State.panelStep
  split
  · refine (panelDetect_frame s now v.l v.r).trans ?_
    dsimp only
    split
    · split
      · exact panelSend_frame _ _ _ _
      · exact ⟨rfl, rfl, rfl, rfl, [], by simp⟩
    · exact .refl _
  · exact .refl s

theorem namesTurn_frame (s : State) (connected : Bool) (names : List (List Byte)) :
    SchedulerOnly s (s.namesTurn connected names) := by
  unfold State.namesTurn
  split
  · cases connected
    · exact .refl s
    · exact .one (packCfg names) rfl rfl rfl rfl rfl
  · exact .refl s

/-- A whole tick touches only the scheduler's registers and TX. -/
theorem tick_frame (s : State) (now : Nat) (connected : Bool) (v : Sample) :
    SchedulerOnly s (s.tick now connected v) :=
  ((((indicatorTurn_frame s now connected v.ind).trans (plotTurn_frame _ now connected v.plot)).trans
    (panelTurn_frame _ now connected v.pan)).trans (inputTurn_frame _ now connected v.inp)).trans
    (sensorTurn_frame _ now connected v.sen)

end Sys2Proof.Machine
end

