-- ==== Sys2Proof/Laws/Wire.lean ====
section
/-! SUPPORT. The laws of the block's arithmetic and of the port's readers: Sum8 and Elapsed, the 16-bit
fields, and, for each reader of the decoder, that it reads back what the encoder's writer wrote. -/

namespace Sys2Proof.Machine

/-! ### Sum8 and Elapsed -/

theorem sum8_cons (b : Byte) (bs : List Byte) : sum8 (b :: bs) = b + sum8 bs := rfl

theorem sum8_append (xs ys : List Byte) : sum8 (xs ++ ys) = sum8 xs + sum8 ys := by
  induction xs with
  | nil => simp [sum8]
  | cons x xs ih => simp [sum8, ih, BitVec.add_assoc]

/-- An elapsed time is a uW value. -/
theorem elapsed_lt (w now since : Nat) : elapsed w now since < 2 ^ w := by
  have hpos : (0 : Int) < ((2 ^ w : Nat) : Int) := by exact_mod_cast Nat.two_pow_pos w
  have h1 := Int.emod_nonneg ((now : Int) - since) (ne_of_gt hpos)
  have h2 := Int.emod_lt_of_pos ((now : Int) - since) hpos
  unfold elapsed
  omega

theorem nowOnPort_lt (w now : Nat) : nowOnPort w now < 2 ^ w := Nat.mod_lt _ (Nat.two_pow_pos w)

@[simp] theorem nowOnPort_idem (w now : Nat) : nowOnPort w (nowOnPort w now) = nowOnPort w now :=
  Nat.mod_mod_of_dvd _ (dvd_refl _)

/-! ### 16-bit fields -/

/-- The two bytes of a u16, joined in the same order, are the u16. -/
theorem join16_put16 (ord : U16Order) (v : U16) :
    ∃ a b, put16 ord v = [a, b] ∧ join16 ord a b = v := by
  cases ord
  · exact ⟨_, _, rfl, by simp only [join16]; ext i hi; simp; grind⟩
  · exact ⟨_, _, rfl, by simp only [join16]; ext i hi; simp; grind⟩

theorem put16_length (ord : U16Order) (v : U16) : (put16 ord v).length = 2 := by
  cases ord <;> rfl

end Sys2Proof.Machine

namespace Sys2Proof

open Sys2Proof.Machine

/-! ### Readers against writers -/

theorem takeByte_cons (b : Byte) (rest : List Byte) : takeByte (b :: rest) = .ok (b, rest) := rfl

theorem takeBytes_append (bs rest : List Byte) :
    takeBytes bs.length (bs ++ rest) = .ok (bs, rest) := by
  simp [takeBytes]

theorem natDigits_length (k n : Nat) : (natDigits k n).length ≤ k := by
  induction k generalizing n with
  | zero => simp [natDigits]
  | succ k ih =>
    rw [natDigits]
    split
    · simp
    · simpa using ih _

theorem leNat_natDigits (k n : Nat) (h : n < 256 ^ k) : leNat (natDigits k n) = n := by
  induction k generalizing n with
  | zero => simp at h; simp [natDigits, leNat, h]
  | succ k ih =>
    rw [natDigits]
    split
    · rename_i h0; simp [leNat, h0]
    · rw [leNat, ih _ (by rw [pow_succ] at h; omega)]
      simp
      omega

/-- The digits of at most 255 bytes are below the port's bound. -/
theorem leNat_lt (bs : List Byte) : leNat bs < 256 ^ bs.length := by
  induction bs with
  | nil => simp [leNat]
  | cons b bs ih =>
    have := b.isLt
    simp only [leNat, List.length_cons, pow_succ]
    omega

theorem takeNat_putNat (n : Nat) (rest : List Byte) (h : fitsPort n = true) :
    takeNat (putNat n ++ rest) = .ok (n, rest) := by
  have hn : n < 256 ^ 255 := of_decide_eq_true h
  have hl := natDigits_length 255 n
  have hk : (BitVec.ofNat 8 (natDigits 255 n).length).toNat = (natDigits 255 n).length := by
    rw [BitVec.toNat_ofNat]; omega
  simp only [takeNat, putNat, List.cons_append, takeByte_cons, hk, takeBytes_append]
  rw [leNat_natDigits _ _ hn]

theorem takeBit_putBit (b : Bool) (rest : List Byte) :
    takeBit (putBit b ++ rest) = .ok (b, rest) := by
  cases b <;> rfl

theorem takeU16_put16 (ord : U16Order) (v : U16) (rest : List Byte) :
    takeU16 ord (put16 ord v ++ rest) = .ok (v, rest) := by
  obtain ⟨a, b, h, hj⟩ := join16_put16 ord v
  simp [h, takeU16, takeByte_cons, hj]

theorem takeString_putString (bs rest : List Byte) (h : fitsPort bs.length = true) :
    takeString (putString bs ++ rest) = .ok (bs, rest) := by
  simp only [takeString, putString, List.append_assoc, takeNat_putNat _ _ h, bind, Except.bind,
    takeBytes_append]

/-- A list of items, each read back by `item`, is read back whole. -/
theorem takeMany_flatMap {α : Type} (item : List Byte → Except DecodeError (α × List Byte))
    (put : α → List Byte) (xs : List α) (rest : List Byte)
    (h : ∀ x ∈ xs, ∀ r, item (put x ++ r) = .ok (x, r)) :
    takeMany item xs.length (xs.flatMap put ++ rest) = .ok (xs, rest) := by
  induction xs with
  | nil => rfl
  | cons x xs ih =>
    simp only [List.flatMap_cons, List.append_assoc, List.length_cons, takeMany]
    rw [h x (by simp)]
    simp only
    rw [ih (fun y hy => h y (by simp [hy]))]

theorem enablesOfByte_byteOfEnables (e : ChannelEnables) : enablesOfByte (byteOfEnables e) = e := by
  rcases e with ⟨_ | _, _ | _, _ | _, _ | _, _ | _, _ | _⟩ <;> rfl

end Sys2Proof
end

