-- ==== Sys2Proof/Tests/Slice0.lean ====
section
/-! SUPPORT. The model's own tests: ill-formed terms that WellFormed refuses; for every constructor a word
written out from its encoding, and what it decodes to; at most two one-step tests per instruction, with
results from spec/95_test_vectors.md; and, for every obligation with hypotheses, a state and operands
that meet them. -/

namespace Sys2Proof.Tests

open Sys2Proof Sys2Proof.Machine

/-! ### Helpers -/

/-- A machine that has been reset and holds the bytes `bs`. -/
def held (bs : List Byte) : State :=
  { State.reset with rb := (List.range bs.length).zip bs, rbCnt := bs.length }

/-- The same in legacy mode. -/
def heldLegacy (bs : List Byte) : State :=
  { held bs with cfg := { Cfg.reference with validateCsum := false } }

/-- The state a step leads to, if it leads to one. -/
def nextOf : Host.Outcome State Fault Refusal → Option State
  | .next t => some t
  | .fault _ => none
  | .refused _ => none

/-- Why a step was refused, if it was. -/
def whyRefused : Host.Outcome State Fault Refusal → Option Refusal
  | .next _ => none
  | .fault _ => none
  | .refused r => some r

/-- What the decoder answers, if it is an instruction. -/
def read (ord : U16Order) (r : PortInput) : Option Instr := (decode ord r).toOption

/-- What one instruction adds to the output ports of a machine that has emitted nothing. -/
def emitted (i : Instr) (s : State) : Option (List PortRecord) := (nextOf (exec i s)).map State.out

/-- The packet `SA` of 95_test_vectors.md, with its checksum byte and its trailer as operands. -/
def packetSA (csum trl0 : Byte) : List Byte :=
  [0xAA, 0x55, 0x00, 0x02, 0x00, 0x04, 0x01, 0x00, 0x34, 0x12, 0xFF, 0x00, 0x02, 0x01, 0x81, csum,
    trl0, 0x00]

/-- The fields of `SA` (95_test_vectors.md). -/
def fieldsSA : StatePacket := ⟨0x0200, 0x0400, 0x0001, 0x1234, 0x00FF, 0x0102, 0x81, 0xD0, 0, 0⟩

def ind : IndSample := ⟨0x12, 0xF0⟩
def plot : PlotSample := ⟨3, 10, 20, 30⟩
def pan : PanSample := ⟨10, 20, 3⟩
def inp : InpSample := ⟨1, 0x0203, 0xFFFF, 0x8000, 1, 0, 1⟩
def sen : SenSample := ⟨0x0190, 1, 0xFFFE, 0x0400, 1⟩
def sample : Sample := ⟨ind, plot, pan, inp, sen⟩

/-! ### WellFormed: an ill-formed term for each check -/

/-- The first natural that the port cannot carry, `256 ^ 255`. -/
theorem test_illformed_nat : fitsPort portNatBound = false := by simp [fitsPort]

theorem test_illformed_now : (Instr.tick (portNatBound) true sample).wellFormed = false := by
  simp [Instr.wellFormed, test_illformed_nat]

theorem test_illformed_mode :
    (Instr.reset { CfgOperand.reference with mode := portNatBound }).wellFormed = false := by
  simp [Instr.wellFormed, Params.fitsPort, test_illformed_nat]

theorem test_illformed_interval :
    (Instr.reset { CfgOperand.reference with tInp := portNatBound }).wellFormed = false := by
  simp [Instr.wellFormed, Params.fitsPort, test_illformed_nat]

theorem test_illformed_enable_row :
    (Instr.reset { CfgOperand.reference with
      chEn := [(portNatBound, ChannelEnables.all)] }).wellFormed = false := by
  simp [Instr.wellFormed, Params.fitsPort, test_illformed_nat]

/-- A batch as long as the port's bound exists only in the abstract. -/
theorem test_illformed_batch (rx : List Byte) (h : rx.length = portNatBound) :
    (Instr.ingest rx).wellFormed = false := by
  simp [Instr.wellFormed, fitsPort, h]

/-- The same for a name of a catalog that RESET is given. -/
theorem test_illformed_reset_name (name : List Byte) (h : name.length = portNatBound) :
    (Instr.reset { CfgOperand.reference with names := [name] }).wellFormed = false := by
  simp [Instr.wellFormed, Params.fitsPort, fitsPort, h]

theorem test_illformed_names_count :
    (Instr.configNames true (List.replicate 256 [])).wellFormed = false := by
  simp only [Instr.wellFormed, catalogFits, List.length_replicate]; decide

theorem test_illformed_name_length :
    (Instr.configNames true [List.replicate 256 0x41]).wellFormed = false := by
  simp only [Instr.wellFormed, catalogFits, List.all_cons, List.length_replicate]; decide

theorem test_wellformed_names :
    (Instr.configNames true [List.replicate 255 0x41, []]).wellFormed = true := by
  simp only [Instr.wellFormed, catalogFits, List.all_cons, List.length_replicate]; decide

/-! ### Decoding: words written out from 30_encoding.md, operands in the layout of
notes/assumptions/1.md -/

theorem test_decode_nop : read .le (.cmd 0b000 []) = some .nop := by decide

theorem test_decode_ingest :
    read .le (.cmd 0b001 [1, 3, 0xBB, 0x66, 0x07]) = some (.ingest [0xBB, 0x66, 0x07]) := by decide

theorem test_decode_drain : read .le (.cmd 0b010 []) = some .drain := by decide

theorem test_decode_tick :
    read .be (.cmd 0b011 ([2, 0xE8, 0x03, 1] ++ [0x12, 0xF0] ++ [3, 10, 20, 30]
      ++ [10, 0, 20, 0, 3] ++ [0x01, 0x00, 0x03, 0x02, 0xFF, 0xFF, 0x00, 0x80, 1, 0, 1]
      ++ [0x90, 0x01, 0x01, 0x00, 0xFE, 0xFF, 0x00, 0x04, 1]))
      = some (.tick 1000 true sample) := by decide

theorem test_decode_config_req : read .le (.cmd 0b100 [1]) = some (.configReq true) := by decide

theorem test_decode_reserved :
    read .le (.cmd 0b101 []) = some .reserved101
      ∧ read .le (.cmd 0b110 []) = some .reserved110 := by decide

theorem test_decode_reset_nothing_listed :
    read .le (.cmd 0b111 [0, 0]) = some (.reset .reference) := by decide

/-- Rows 0 (`C`), 9 (`U16_ORDER`), 11 (`CH_EN`) and 12 (`NAME_CATALOG`) are listed. -/
theorem test_decode_reset_listed :
    read .le (.cmd 0b111 [0x01, 0x1A, 1, 18, 1, 1, 1, 1, 7, 0b000100, 1, 2, 1, 1, 0x4C, 1, 2, 0x52,
        0x32])
      = some (.reset { CfgOperand.reference with
          c := 18, u16Order := 1, chEn := [(7, ⟨false, false, true, false, false, false⟩)],
          names := [[0x4C], [0x52, 0x32]] }) := by decide

/-- K1. -/
theorem test_decode_state : read .le (.pkt 0 false (packetSA 0xD0 0)) = some (.state fieldsSA) := by
  decide

/-- K17. -/
theorem test_decode_event : read .le (.pkt 0 false [0xBB, 0x66, 7, 7]) = some (.event 7 7) := by
  decide

/-- K7. -/
theorem test_decode_panel :
    read .le (.pkt 5 true [0xCC, 0x11, 0x0A, 0x00, 0x14, 0x00, 0x03, 0x21])
      = some (.panel 5 true pan) := by decide

/-- K8. -/
theorem test_decode_indicator :
    read .be (.pkt 5 true [0xCC, 0x22, 0x12, 0xF0, 0x02]) = some (.indicator 5 true ind) := by decide

/-- K10. -/
theorem test_decode_plot :
    read .le (.pkt 5 true [0xCC, 0x33, 0x03, 0x0A, 0x14, 0x1E, 0x3F]) = some (.plot 5 true plot) := by
  decide

/-- K14. -/
theorem test_decode_config_names :
    read .le (.pkt 0 true [0xCC, 0x44, 0x02, 0x01, 0x4C, 0x02, 0x52, 0x32])
      = some (.configNames true [[0x4C], [0x52, 0x32]]) := by decide

/-- K12. -/
theorem test_decode_input :
    read .le (.pkt 5 true [0xCC, 0x55, 0x01, 0x00, 0x03, 0x02, 0xFF, 0xFF, 0x00, 0x80, 0x01, 0x00,
        0x01, 0x86])
      = some (.inputTelemetry 5 true inp) := by decide

/-- K13. -/
theorem test_decode_sensor :
    read .le (.pkt 5 true [0xCC, 0x66, 0x90, 0x01, 0x01, 0x00, 0xFE, 0xFF, 0x00, 0x04, 0x01, 0x94])
      = some (.sensorTelemetry 5 true sen) := by decide

/-- A wrong checksum byte on an outbound packet, a header of R68, and a packet cut short. -/
theorem test_decode_refuses :
    read .le (.pkt 5 true [0xCC, 0x22, 0x12, 0xF0, 0x03]) = none
      ∧ read .le (.pkt 5 true [0xAA, 0x66, 0, 0]) = none
      ∧ read .le (.pkt 5 true [0xBB, 0x66, 7]) = none := by decide

/-- The words of spec/opcode_table.json, as the host hands them over. -/
theorem test_decode_table_words :
    decodeTableWord 8 0x7 = some (.reset .reference)
      ∧ decodeTableWord 16 0xAA55 = some (.state ⟨0, 0, 0, 0, 0, 0, 0, 0, 0, 0⟩)
      ∧ decodeTableWord 16 0xCC44 = some (.configNames false [])
      ∧ decodeTableWord 16 0xCC77 = none := by decide

/-! ### The first step after reset -/

theorem test_step_first_instruction :
    step (State.reset.withFetchWord 8 0x5) = .refused .reservedCommand
      ∧ nextOf (step (State.reset.withFetchWord 8 0x7)) = some State.reset
      ∧ (nextOf (step (State.reset.withFetchWord 16 0xBB66))).map (fun t => t.out)
          = some [.disp (.eventRec 0), .log .event [0xBB, 0x66, 0, 0]] :=
  ⟨rfl, rfl, rfl⟩

/-- 30_encoding.md R67 and I22 of 93_implementation_defined.md: a packet whose header is not in the catalog,
one cut short, and an outbound one with a wrong checksum are taken without any effect. -/
theorem test_step_noise :
    step (State.reset.putInput (.pkt 0 true [0xCC, 0x77, 1, 2])) = .next State.reset
      ∧ step (State.reset.putInput (.pkt 0 true [0xBB, 0x66, 7])) = .next State.reset
      ∧ step (State.reset.putInput (.pkt 501 true [0xCC, 0x22, 0x12, 0xF0, 0x03]))
          = .next State.reset := ⟨rfl, rfl, rfl⟩

/-! ### One step of each instruction -/

theorem test_nop : nextOf (exec .nop (held [0xAA])) = some (held [0xAA]) := by decide

/-- V10 and P5 at `C = 18`: two bytes too many, and the two oldest go. -/
theorem test_ingest_evicts :
    (nextOf (exec (.ingest [0x66, 0x01, 0x02])
        { held (0xBB :: 0xEE :: List.replicate 15 0) with
          cfg := { Cfg.reference with c := 18 } })).map (fun t => (t.rbCnt, t.bytes))
      = some (18, List.replicate 15 0 ++ [0x66, 0x01, 0x02]) := by decide

/-- V34: an empty batch. -/
theorem test_ingest_empty :
    nextOf (exec (.ingest []) (held [0xBB, 0x66])) = some (held [0xBB, 0x66]) := by decide

/-- V15: the Event inside a State with a wrong checksum. -/
theorem test_drain_inside_rejected :
    (nextOf (exec .drain (held ([0xAA, 0x55, 0xBB, 0x66, 0x03, 0x03] ++ List.replicate 9 0
        ++ [0x26, 0, 0])))).map (fun t => (dispRecords t.out, t.bytes))
      = some ([.eventRec 3], List.replicate 9 0 ++ [0x26, 0, 0]) := by decide

/-- V3 and V13: a packet, and what is too short stays. -/
theorem test_drain_keeps_rest :
    (nextOf (exec .drain (held [0xBB, 0x66, 0x05, 0x05, 0xBB]))).map (fun t => (t.out, t.bytes))
      = some ([.disp (.eventRec 5), .log .event [0xBB, 0x66, 5, 5]], [0xBB]) := by decide

/-- S14, with T_INP and T_SEN too long for this tick. -/
theorem test_tick :
    (nextOf (exec (.tick 1000 true sample)
        { State.reset with cfg := { Cfg.reference with tInp := 1000, tSen := 1000 } })).map
        (fun t => (txRecords t.out, t.indLast, t.panWopen))
      = some ([[0xCC, 0x22, 0x12, 0xF0, 0x02], [0xCC, 0x33, 0x03, 0x0A, 0x14, 0x1E, 0x3F],
          [0xCC, 0x11, 0x0A, 0x00, 0x14, 0x00, 0x03, 0x21]], 1000, true) := by decide

/-- S19. -/
theorem test_config_req :
    (emitted (.configReq true)
        { State.reset with cfg := { Cfg.reference with names := [[0x4C], [0x52, 0x32]] } })
      = some [.tx [0xCC, 0x44, 0x02, 0x01, 0x4C, 0x02, 0x52, 0x32]]
      ∧ emitted (.configReq false) State.reset = some [] := by decide

theorem test_reserved :
    whyRefused (exec .reserved101 (held [1])) = some .reservedCommand
      ∧ whyRefused (exec .reserved110 (held [1])) = some .reservedCommand := by decide

/-- V36: RESET in the middle of a packet. -/
theorem test_reset :
    nextOf (exec (.reset .reference) { held [0xAA, 0x55, 0x01] with panWopen := true, indLast := 7 })
      = some State.reset := by decide

/-- 00_scope.md R7 at its limits. -/
theorem test_reset_bad_config :
    whyRefused (exec (.reset { CfgOperand.reference with c := 17 }) State.reset) = some .badConfig
      ∧ whyRefused (exec (.reset { CfgOperand.reference with tInd := 2 ^ 32 }) State.reset)
          = some .badConfig
      ∧ whyRefused (exec (.reset { CfgOperand.reference with u16Order := 2 }) State.reset)
          = some .badConfig := by decide

/-- V1-like for one whole State, and V23 with bit 0 of offset 15 flipped. -/
theorem test_state :
    emitted (.state fieldsSA) State.reset
        = some [.disp (.stateRec (packetSA 0xD0 0)), .log .state (packetSA 0xD0 0)]
      ∧ emitted (.state { fieldsSA with csum := 0xD1 }) State.reset = some [] := by decide

/-- V5 and V12. -/
theorem test_event :
    emitted (.event 7 8) State.reset = some []
      ∧ emitted (.event 7 8) (heldLegacy [])
          = some [.disp (.eventRec 7), .log .event [0xBB, 0x66, 7, 8]] := by decide

/-- K7, sent on the tick that sees the change. -/
theorem test_panel_change :
    (nextOf (exec (.panel 50 true pan) State.reset)).map (fun t => (t.out, t.panLastTx))
      = some ([.tx [0xCC, 0x11, 0x0A, 0x00, 0x14, 0x00, 0x03, 0x21]], 50) := by decide

/-- L1-1: the tick at exactly 300 ms commits and sends nothing. -/
theorem test_panel_commit :
    (nextOf (exec (.panel 1300 true pan)
        { State.reset with
          panPendL := 10, panPendR := 20, panWopen := true, panWstart := 1000,
          panLastTx := 1200 })).map (fun t => (t.out, t.panLsentL, t.panLsentR, t.panWopen))
      = some ([], 10, 20, false) := by decide

/-- S1 and S5. -/
theorem test_indicator :
    emitted (.indicator 500 true ind) State.reset = some []
      ∧ emitted (.indicator 501 true ind) State.reset
          = some [.tx [0xCC, 0x22, 0x12, 0xF0, 0x02]]
      ∧ emitted (.indicator 0xF0 true ind) { State.reset with indLast := 0xFFFFFF00 } = some [] := by
  decide

/-- S4 and K10. -/
theorem test_plot :
    emitted (.plot 50 true plot) State.reset = some []
      ∧ emitted (.plot 51 true plot) State.reset
          = some [.tx [0xCC, 0x33, 0x03, 0x0A, 0x14, 0x1E, 0x3F]] := by decide

/-- K16 and K15. -/
theorem test_config_names :
    emitted (.configNames true [[], [0x41, 0x42]]) State.reset
        = some [.tx [0xCC, 0x44, 0x02, 0x00, 0x02, 0x41, 0x42]]
      ∧ emitted (.configNames true []) State.reset = some [.tx [0xCC, 0x44, 0x00]] := by decide

/-- S15 and K12. -/
theorem test_input_telemetry :
    emitted (.inputTelemetry 200 true inp)
        { State.reset with cfg := { Cfg.reference with tInp := 200 } } = some []
      ∧ emitted (.inputTelemetry 201 true inp)
          { State.reset with cfg := { Cfg.reference with tInp := 200 } }
          = some [.tx [0xCC, 0x55, 0x01, 0x00, 0x03, 0x02, 0xFF, 0xFF, 0x00, 0x80, 0x01, 0x00, 0x01,
              0x86]] := by decide

/-- S15 and K13. -/
theorem test_sensor_telemetry :
    emitted (.sensorTelemetry 1001 true sen)
        { State.reset with cfg := { Cfg.reference with tSen := 1000 } }
        = some [.tx [0xCC, 0x66, 0x90, 0x01, 0x01, 0x00, 0xFE, 0xFF, 0x00, 0x04, 0x01, 0x94]]
      ∧ emitted (.sensorTelemetry 1001 false sen)
          { State.reset with cfg := { Cfg.reference with tSen := 1000 } } = some [] := by decide

/-! ### Witnesses: a state and operands that meet the hypotheses of each obligation that has some -/

/-- A buffer whose only acceptable candidate is `EV(09)`, after two bytes of noise. -/
def noisy : State := held [0x11, 0x22, 0xBB, 0x66, 0x09, 0x09]

/-- Every channel disabled in mode 0. -/
def silent : State :=
  { State.reset with
    cfg := { Cfg.reference with chEn := [(0, ⟨false, false, false, false, false, false⟩)] } }

theorem witness_ResetLatchesConfigurationAndClears :
    18 ≤ ({ CfgOperand.reference with c := 18, tInd := 2 ^ 32 - 1 } : CfgOperand).c
      ∧ (∀ t ∈ [2 ^ 32 - 1, 50, 300, 100, 0, 0], t < 2 ^ CfgOperand.reference.w)
      ∧ CfgOperand.reference.names.length ≤ 255
      ∧ (∀ name ∈ CfgOperand.reference.names, name.length ≤ 255)
      ∧ (CfgOperand.reference.u16Order = 0 ∧ U16Order.le = .le)
      ∧ (({ CfgOperand.reference with u16Order := 1 } : CfgOperand).u16Order = 1
          ∧ U16Order.be = .be) := by decide

theorem witness_OnlyResetChangesConfiguration :
    (∀ op, Instr.ingest [7] ≠ .reset op) ∧ exec (.ingest [7]) State.reset = .next (held [7]) :=
  ⟨fun _ h => Instr.noConfusion h, rfl⟩

/-- Also for DrainAcceptsLowestFirst, RestartingScanEqualsContinuingScan, DrainLeavesNoCandidate,
DrainAcceptsAtMostAQuarter and OnlyTheTwoListedRefusalsExist. -/
theorem witness_NoFaultAndOnlyTwoRefusals : noisy.BufferHeld := by decide

theorem witness_StepRunsTheDecodedInstruction_ok :
    (noisy.putInput (.cmd 0b010 [])).pending = .cmd 0b010 [] :: []
      ∧ decode noisy.cfg.u16Order (.cmd 0b010 []) = .ok .drain := ⟨rfl, rfl⟩

theorem witness_StepRunsTheDecodedInstruction_error :
    (noisy.putInput (.cmd 0b100 [])).pending = .cmd 0b100 [] :: []
      ∧ decode noisy.cfg.u16Order (.cmd 0b100 []) = .error .truncated := ⟨rfl, rfl⟩

theorem witness_StepRunsTheDecodedInstruction_waits : noisy.pending = [] := rfl

theorem witness_DecodeOfEncodeGivesTheInstruction :
    (Instr.ingest [0xBB, 0x66]).wellFormed = true
      ∧ (Instr.configNames true [[0x4C], []]).wellFormed = true := by
  constructor
  · simp [Instr.wellFormed, fitsPort, portNatBound]
  · decide

theorem witness_DecodedInstructionsAreWellFormed :
    decode .le (.cmd 0b001 [1, 1, 0x07]) = .ok (.ingest [0x07]) := rfl

theorem witness_SixteenBitFieldsFollowTheOrder :
    [(0x34 : Byte), 0x12][0]? = some 0x34 ∧ [(0x34 : Byte), 0x12][0 + 1]? = some 0x12 := by decide

theorem witness_SerialisationIsAsGivenAndInjective :
    packInd ind = packInd ind ∧ packPlot plot = packPlot plot
      ∧ packPanel .be pan = packPanel .be pan ∧ packInp .le inp = packInp .le inp
      ∧ packSen .le sen = packSen .le sen
      ∧ catalogFits [[0x4C], []] = true ∧ packCfg [[0x4C], []] = packCfg [[0x4C], []] := by decide

/-- At both ends of each range. -/
theorem witness_BufferWritersMoveTheHeldBytes :
    noisy.BufferHeld ∧ noisy.rbCnt < noisy.cfg.c ∧ (held [7]).BufferHeld ∧ 1 ≤ (held [7]).rbCnt
      ∧ 1 ≤ 1 ∧ 1 ≤ noisy.rbCnt ∧ noisy.rbCnt ≤ noisy.rbCnt := by decide

/-- A full buffer, and one that is one byte short of it. -/
theorem witness_IngestKeepsTheNewestBytes :
    ({ held (List.replicate 18 7) with cfg := { Cfg.reference with c := 18 } } : State).BufferHeld
      ∧ (held (List.replicate 18 7)).rbCnt ≤ 18
      ∧ (held (List.replicate 17 7)).BufferHeld ∧ (held (List.replicate 17 7)).rbCnt ≤ 18
      ∧ 0 < 18 := by decide

theorem witness_DrainedPacketsPassTheChecksum :
    noisy.BufferHeld ∧ noisy.cfg.validateCsum = true := by decide

theorem witness_SingleBitFlipFailsTheChecksum :
    (packetSA 0xD0 0).length = 18 ∧ 2 ≤ 2 ∧ 2 ≤ 15 ∧ 15 ≤ 15
      ∧ checksumOk .state (packetSA 0xD0 0) = true
      ∧ [(0xBB : Byte), 0x66, 7, 7].length = 4 ∧ 2 ≤ 3 ∧ 3 ≤ 3
      ∧ checksumOk .event [0xBB, 0x66, 7, 7] = true := by decide

theorem witness_NoiseThenPacketYieldsThePacket :
    noisy.BufferHeld ∧ noisy.bytes = [0x11, 0x22] ++ [0xBB, 0x66, 0x09, 0x09]
      ∧ [(0xBB : Byte), 0x66, 0x09, 0x09].length = afterPacket 0 .event
      ∧ Acceptable noisy.cfg.validateCsum ([0x11, 0x22] ++ [0xBB, 0x66, 0x09, 0x09])
          [(0x11 : Byte), 0x22].length .event
      ∧ ∀ j, j < [(0x11 : Byte), 0x22].length → ∀ k,
          ¬ Acceptable noisy.cfg.validateCsum ([0x11, 0x22] ++ [0xBB, 0x66, 0x09, 0x09]) j k := by
  refine ⟨by decide, by decide, by decide, by simp [Acceptable], ?_⟩
  intro j hj k
  have hj' : j = 0 ∨ j = 1 := by simp at hj; omega
  rcases hj' with rfl | rfl <;> cases k <;> simp [Acceptable]

/-- The same with no noise at all, and with a State. -/
theorem witness_NoiseThenPacketYieldsThePacket_state :
    (held (packetSA 0xD0 0)).BufferHeld
      ∧ (held (packetSA 0xD0 0)).bytes = [] ++ packetSA 0xD0 0
      ∧ (packetSA 0xD0 0).length = afterPacket 0 .state
      ∧ Acceptable true ([] ++ packetSA 0xD0 0) ([] : List Byte).length .state := by
  refine ⟨by decide, by decide, by decide, ?_⟩
  simp only [Acceptable]
  decide

theorem witness_BackToBackPacketsAllDispatched :
    (held ([0xBB, 0x66, 9, 9] ++ packetSA 0xD0 0)).BufferHeld
      ∧ (held ([0xBB, 0x66, 9, 9] ++ packetSA 0xD0 0)).bytes
          = [(PacketKind.event, [0xBB, 0x66, 9, 9]), (.state, packetSA 0xD0 0)].flatMap Prod.snd
      ∧ ∀ k p, (k, p) ∈ [(PacketKind.event, [0xBB, 0x66, 9, 9]), (.state, packetSA 0xD0 0)] →
          p.length = afterPacket 0 k ∧ Acceptable true p 0 k := by
  refine ⟨by decide, by decide, ?_⟩
  intro k p h
  simp only [List.mem_cons, Prod.mk.injEq, List.not_mem_nil, or_false] at h
  rcases h with ⟨rfl, rfl⟩ | ⟨rfl, rfl⟩
  · simp [afterPacket, Acceptable]
  · simp only [Acceptable]
    decide

theorem witness_InboundPacketsRoundTrip :
    State.reset.BufferHeld ∧ State.reset.rbCnt = 0 ∧ 18 ≤ State.reset.cfg.c
      ∧ fieldsSA.csum = sum8 (statePayload .le fieldsSA) := by decide

theorem witness_RejectedEventStaysUnlessLegacy :
    (held [0xBB, 0x66, 7, 8]).BufferHeld ∧ (held [0xBB, 0x66, 7, 8]).bytes = [0xBB, 0x66, 7, 8]
      ∧ (7 : Byte) ≠ 8 ∧ (held [0xBB, 0x66, 7, 8]).cfg.validateCsum = true := by decide

theorem witness_RejectedEventStaysUnlessLegacy_legacy :
    (heldLegacy [0xBB, 0x66, 7, 8]).BufferHeld
      ∧ (heldLegacy [0xBB, 0x66, 7, 8]).bytes = [0xBB, 0x66, 7, 8]
      ∧ (7 : Byte) ≠ 8 ∧ (heldLegacy [0xBB, 0x66, 7, 8]).cfg.validateCsum = false := by decide

theorem witness_EventCapturesIncompleteState :
    (held [0xAA, 0x55, 0, 0, 0xBB, 0x66, 2, 2]).BufferHeld
      ∧ (held [0xAA, 0x55, 0, 0, 0xBB, 0x66, 2, 2]).cfg.validateCsum = true
      ∧ (held [0xAA, 0x55, 0, 0, 0xBB, 0x66, 2, 2]).bytes
          = [0xAA, 0x55, 0, 0, 0xBB, 0x66, 2, 2] := by decide

/-- On both sides of a rollover, and at the longest delay. -/
theorem witness_ElapsedIsModular :
    0 < 2 ^ 32 ∧ 0xFFFFFFFF < 2 ^ 32 ∧ 2 ^ 32 - 1 < 2 ^ 32 := by decide

theorem witness_NamesPacketIsSentAsGiven :
    (List.replicate 255 ([] : List Byte)).length ≤ 255
      ∧ ∀ name ∈ [List.replicate 255 (0x41 : Byte), []], name.length ≤ 255 := by
  refine ⟨List.length_replicate.le, ?_⟩
  intro name h
  simp only [List.mem_cons, List.not_mem_nil, or_false] at h
  rcases h with rfl | rfl
  · exact List.length_replicate.le
  · decide

theorem witness_DisabledChannelsDoNothing :
    ∀ ch, channelEnabled silent.cfg.toParams ch = false := by
  intro ch; cases ch <;> decide

/-- Indicator, at the last millisecond of its interval. -/
theorem witness_FixedChannelsKeepTheirDistance_indicator :
    exec (.indicator 501 true ind) State.reset
        = .next { State.reset with indLast := 501, out := [.tx [0xCC, 0x22, 0x12, 0xF0, 0x02]] }
      ∧ [PortRecord.tx [0xCC, 0x22, 0x12, 0xF0, 0x02]] ≠ State.reset.out
      ∧ elapsed 32 (1001 % 2 ^ 32) (501 % 2 ^ 32) ≤ State.reset.cfg.tInd := ⟨rfl, by decide, by decide⟩

theorem witness_FixedChannelsKeepTheirDistance_plot :
    exec (.plot 51 true plot) State.reset
        = .next { State.reset with
            plotLast := 51, out := [.tx [0xCC, 0x33, 0x03, 0x0A, 0x14, 0x1E, 0x3F]] }
      ∧ [PortRecord.tx [0xCC, 0x33, 0x03, 0x0A, 0x14, 0x1E, 0x3F]] ≠ State.reset.out
      ∧ elapsed 32 (101 % 2 ^ 32) (51 % 2 ^ 32) ≤ State.reset.cfg.tPlot := ⟨rfl, by decide, by decide⟩

theorem witness_FixedChannelsKeepTheirDistance_input :
    exec (.inputTelemetry 1 true inp) State.reset
        = .next { State.reset with
            inpLast := 1, out := [.tx [0xCC, 0x55, 0x01, 0x00, 0x03, 0x02, 0xFF, 0xFF, 0x00, 0x80,
              0x01, 0x00, 0x01, 0x86]] }
      ∧ [PortRecord.tx [0xCC, 0x55, 0x01, 0x00, 0x03, 0x02, 0xFF, 0xFF, 0x00, 0x80, 0x01, 0x00, 0x01,
          0x86]] ≠ State.reset.out
      ∧ elapsed 32 (1 % 2 ^ 32) (1 % 2 ^ 32) ≤ State.reset.cfg.tInp := ⟨rfl, by decide, by decide⟩

/-- With T_SEN = 1000, at the last millisecond of the interval. -/
theorem witness_FixedChannelsKeepTheirDistance_sensor :
    exec (.sensorTelemetry 1001 true sen)
        { State.reset with cfg := { Cfg.reference with tSen := 1000 } }
        = .next { State.reset with
            cfg := { Cfg.reference with tSen := 1000 }, senLast := 1001,
            out := [.tx [0xCC, 0x66, 0x90, 0x01, 0x01, 0x00, 0xFE, 0xFF, 0x00, 0x04, 0x01, 0x94]] }
      ∧ [PortRecord.tx [0xCC, 0x66, 0x90, 0x01, 0x01, 0x00, 0xFE, 0xFF, 0x00, 0x04, 0x01, 0x94]]
          ≠ State.reset.out
      ∧ elapsed 32 (2001 % 2 ^ 32) (1001 % 2 ^ 32) ≤ 1000 := ⟨rfl, by decide, by decide⟩

/-- S11, with the second tick at exactly the end of the window. -/
theorem witness_UnsentPanelChangeIsCommitted :
    channelEnabled State.reset.cfg.toParams .panel = true ∧ State.reset.panWopen = false
      ∧ (pan.l, pan.r) ≠ (State.reset.panLsentL, State.reset.panLsentR)
      ∧ 0 < State.reset.cfg.tRwin ∧ ({ pan with flags := 0 } : PanSample).l = pan.l
      ∧ ({ pan with flags := 0 } : PanSample).r = pan.r
      ∧ State.reset.cfg.tRwin ≤ elapsed 32 (1300 % 2 ^ 32) (1000 % 2 ^ 32) := by decide

/-- Also for OutputPortsAreAppendOnly, with a step that emits; and for PollingNeverStops. -/
theorem witness_EveryStepKeepsTheInvariant :
    (State.reset.putInput (.pkt 0 false [0xBB, 0x66, 7, 7])).Inv
      ∧ step (State.reset.putInput (.pkt 0 false [0xBB, 0x66, 7, 7]))
          = .next { State.reset with out := [.disp (.eventRec 7), .log .event [0xBB, 0x66, 7, 7]] } :=
  ⟨by decide, rfl⟩

theorem witness_OnlyOutboundHeadersReachTx :
    exec (.configNames true []) State.reset
      = .next { State.reset with out := [.tx [0xCC, 0x44, 0x00]] } := rfl

theorem witness_TheTwoPartsShareNoState_decoder :
    DecoderCommand .drain
      ∧ exec .drain (held [0xBB, 0x66, 7, 7])
          = .next { State.reset with out := [.disp (.eventRec 7), .log .event [0xBB, 0x66, 7, 7]] } :=
  ⟨.drain, rfl⟩

theorem witness_TheTwoPartsShareNoState_scheduler :
    SchedulerCommand (.configReq true)
      ∧ exec (.configReq true) (held [0xBB])
          = .next { held [0xBB] with out := [.tx [0xCC, 0x44, 0x00]] } := ⟨.configReq true, rfl⟩

theorem witness_DecoderAndSchedulerCommandsCommute :
    noisy.BufferHeld ∧ DecoderCommand .drain ∧ SchedulerCommand (.tick 1000 true sample) :=
  ⟨by decide, .drain, .tick 1000 true sample⟩

end Sys2Proof.Tests
end

section
/-! PROOFS. The three writers of the receive buffer (20_memory.md R31 to R33): the laws of Laws/Buffer.lean say
which bytes each leaves; here is what a read of a position gives afterwards, and the statement made of both. -/

namespace Sys2Proof.Machine

/-- RB_CNT of a held buffer counts its bytes (10_state.md R17). -/
theorem length_bytes_held {s : State} (h : s.BufferHeld) : s.bytes.length = s.rbCnt :=
  ((bufferHeld_iff s).mp h).2

/-! ### Reading after a writer -/

theorem read_append_young {s : State} (h : s.BufferHeld) (b : Byte) :
    (s.append b).rb.read s.rbCnt = some b := by
  obtain ⟨hheld, hbytes⟩ := append_held h b
  rw [read_held hheld, hbytes, ← length_bytes_held h, List.getElem?_concat_length]

theorem read_append_below {s : State} (h : s.BufferHeld) (b : Byte) {a : Nat} (ha : a < s.rbCnt) :
    (s.append b).rb.read a = s.rb.read a := by
  obtain ⟨hheld, hbytes⟩ := append_held h b
  have hlt : a < s.bytes.length := (length_bytes_held h).symm ▸ ha
  rw [read_held hheld, read_held h, hbytes, List.getElem?_append_left hlt]

theorem read_compact {s : State} (h : s.BufferHeld) (k a : Nat) :
    (s.compact k).rb.read a = s.rb.read (a + k) := by
  obtain ⟨hheld, hbytes⟩ := compact_held h k
  rw [read_held hheld, read_held h, hbytes, List.getElem?_drop, Nat.add_comm]

/-- Evicting the oldest byte is compacting by one: R32 is R33 at `k = 1`. -/
theorem evictOldest_eq_compact (s : State) : s.evictOldest = s.compact 1 := rfl

theorem read_evictOldest {s : State} (h : s.BufferHeld) (a : Nat) :
    s.evictOldest.rb.read a = s.rb.read (a + 1) := by
  rw [evictOldest_eq_compact, read_compact h]

/-- Settles O18: each writer leaves the bytes its law in Laws/Buffer.lean says, the reads follow from them, and
every other field is as it was. -/
theorem bufferWritersMoveTheHeldBytes : Obligations.BufferWritersMoveTheHeldBytes := by
  refine ⟨?append, ?evictOldest, ?compact⟩
  case append =>
    intro b s h _
    obtain ⟨hheld, hbytes⟩ := append_held h b
    exact ⟨hheld, hbytes, State.append_rbCnt s b, read_append_young h b,
      fun _ => read_append_below h b, rfl⟩
  case evictOldest =>
    intro s h _
    obtain ⟨hheld, hbytes⟩ := evictOldest_held h
    exact ⟨hheld, hbytes.trans List.drop_one, State.evictOldest_rbCnt s, read_evictOldest h, rfl⟩
  case compact =>
    intro k s h _ _
    obtain ⟨hheld, hbytes⟩ := compact_held h k
    exact ⟨hheld, hbytes, State.compact_rbCnt s k, read_compact h k, rfl⟩

end Sys2Proof.Machine
end

section
/-! PROOFS. Which commands are refused (30_encoding.md R48, 60_exceptions.md R112): DRAIN never is, in any state,
and the only refusals of `exec` are the two reserved codes and a RESET. -/

namespace Sys2Proof.Machine

/-- A pass of DRAIN ends the loop, faults, or hands over to the next pass. -/
theorem drainLoop_ne_refused (fuel : Nat) (s : State) (r : Refusal) :
    drainLoop fuel s ≠ .refused r := by
  induction fuel generalizing s with
  | zero => exact nofun
  | succ fuel ih =>
    rw [drainLoop]
    split
    case isTrue => exact nofun
    case isFalse =>
      split
      case h_1 => exact nofun
      case h_2 held _ =>
        split
        case h_1 => exact nofun
        case h_2 i kind _ =>
          split
          case h_1 => exact nofun
          case h_2 p _ => exact ih _

/-- A refused RESET is refused for its configuration (60_exceptions.md R112). -/
theorem execReset_refused {op : CfgOperand} {s : State} {r : Refusal}
    (h : execReset op s = .refused r) : r = .badConfig := by
  unfold execReset at h
  split at h
  · exact (Host.Outcome.refused.inj h).symm
  · exact nomatch h

/-- Everything a refusal can be: a reserved code with ReservedCommand, or a RESET with BadConfig. -/
theorem exec_refused_cases {i : Instr} {s : State} {r : Refusal} (h : exec i s = .refused r) :
    (r = .reservedCommand ∧ (i = .reserved101 ∨ i = .reserved110))
      ∨ (r = .badConfig ∧ ∃ op, i = .reset op) := by
  cases i with
  | reserved101 => exact .inl ⟨(Host.Outcome.refused.inj h).symm, .inl rfl⟩
  | reserved110 => exact .inl ⟨(Host.Outcome.refused.inj h).symm, .inr rfl⟩
  | reset op => exact .inr ⟨execReset_refused h, op, rfl⟩
  | drain => exact absurd h (drainLoop_ne_refused s.rbCnt s r)
  | nop | ingest | tick | configReq | state | event | panel | indicator | plot | configNames
  | inputTelemetry | sensorTelemetry => exact nomatch h

/-- Settles O7: the codes decode and refuse by their definitions; that only they do is read off
`exec_refused_cases`, whose other case is a RESET refused with BadConfig. -/
theorem reservedCodesAreRefused : Obligations.ReservedCodesAreRefused := by
  refine ⟨fun _ _ => ⟨rfl, rfl⟩, fun _ => rfl, fun _ => rfl, ?onlyThey⟩
  case onlyThey =>
    intro i s h
    obtain ⟨-, hcode⟩ | ⟨hbad, -⟩ := exec_refused_cases h
    · exact hcode
    · exact nomatch hbad

end Sys2Proof.Machine
end

section
/-! PROOFS. The u16 fields of a packet (30_encoding.md R56, 20_memory.md R35): `F16` of two bytes is their join,
and `Put16` anywhere in a packet is read back by it. -/

namespace Sys2Proof.Machine

theorem f16_of_getElem? (ord : U16Order) {p : List Byte} {o : Nat} {a b : Byte}
    (ha : p[o]? = some a) (hb : p[o + 1]? = some b) : f16 ord p o = some (join16 ord a b) := by
  simp only [f16, ha, hb]

theorem f16_append_put16 (ord : U16Order) (before after : List Byte) (v : U16) :
    f16 ord (before ++ put16 ord v ++ after) before.length = some v := by
  obtain ⟨a, b, hput, hjoin⟩ := join16_put16 ord v
  rw [hput, List.append_assoc, ← hjoin]
  exact f16_of_getElem? ord (by simp) (by simp)

/-- Settles O13: the two bytes of each order are `Put16`'s own, the field is their `join16`, and a written field
is read back by `f16_append_put16`. -/
theorem sixteenBitFieldsFollowTheOrder : Obligations.SixteenBitFieldsFollowTheOrder :=
  ⟨fun _ => ⟨rfl, rfl⟩,
    fun _ _ _ _ ha hb => ⟨f16_of_getElem? .le ha hb, f16_of_getElem? .be ha hb⟩,
    f16_append_put16⟩

end Sys2Proof.Machine
end

section
/-! PROOFS. NOP and INGEST (40_decoder.md R71, R73, R74). A batch is a fold of single bytes; each keeps the
newest `C` bytes (`List.rtake`), and keeping them once per byte or once at the end gives the same bytes. -/

namespace Sys2Proof.Machine

/-- Settles O6: both halves are the definitions of the decoder's first code and of NOP's arm. -/
theorem nopChangesNothing : Obligations.NopChangesNothing :=
  ⟨fun _ _ => rfl, fun _ => rfl⟩

/-! ### The newest bytes of a list -/

/-- Dropping old bytes before the younger ones arrive loses none of the newest. -/
theorem rtake_rtake_append (c : Nat) (old young : List Byte) :
    (old.rtake c ++ young).rtake c = (old ++ young).rtake c := by
  simp only [List.rtake_eq_reverse_take_reverse, List.reverse_append, List.reverse_reverse,
    List.take_append, List.take_take, List.length_reverse, Nat.min_eq_left (Nat.sub_le c young.length)]

theorem rtake_of_length_le {c : Nat} {bs : List Byte} (h : bs.length ≤ c) : bs.rtake c = bs := by
  rw [List.rtake, Nat.sub_eq_zero_of_le h, List.drop_zero]

theorem length_rtake (c : Nat) (bs : List Byte) : (bs.rtake c).length = min c bs.length := by
  rw [List.rtake, List.length_drop]
  omega

/-! ### One byte -/

/-- Eviction and append write RB and RB_CNT alone. -/
theorem ingestByte_frame (s : State) (b : Byte) :
    ∃ rb rbCnt, s.ingestByte b = { s with rb := rb, rbCnt := rbCnt } := by
  unfold State.ingestByte
  split
  case isTrue => exact ⟨_, _, rfl⟩
  case isFalse => exact ⟨_, _, rfl⟩

@[simp] theorem State.ingestByte_cfg (s : State) (b : Byte) : (s.ingestByte b).cfg = s.cfg := by
  obtain ⟨_, _, h⟩ := ingestByte_frame s b
  rw [h]

/-- A full buffer gives up its oldest byte first (40_decoder.md R73, 60_exceptions.md R115). -/
theorem ingestByte_held {s : State} (h : s.BufferHeld) (hcap : s.rbCnt ≤ s.cfg.c) (hpos : 0 < s.cfg.c)
    (b : Byte) :
    (s.ingestByte b).BufferHeld ∧ (s.ingestByte b).bytes = (s.bytes ++ [b]).rtake s.cfg.c := by
  have hlen := length_bytes_held h
  unfold State.ingestByte
  split
  case isTrue hfull =>
    obtain ⟨hevict, hrest⟩ := evictOldest_held h
    obtain ⟨hheld, hbytes⟩ := append_held hevict b
    have hdrop : (s.bytes ++ [b]).length - s.cfg.c = 1 := by
      rw [List.length_append, hlen, hfull, List.length_singleton, Nat.add_sub_cancel_left]
    refine ⟨hheld, ?_⟩
    rw [hbytes, hrest, List.rtake, hdrop, List.drop_append_of_le_length (by omega)]
  case isFalse hroom =>
    obtain ⟨hheld, hbytes⟩ := append_held h b
    refine ⟨hheld, hbytes.trans (rtake_of_length_le ?_).symm⟩
    rw [List.length_append, hlen, List.length_singleton]
    omega

/-! ### A batch -/

theorem ingest_cons (s : State) (b : Byte) (rx : List Byte) :
    s.ingest (b :: rx) = (s.ingestByte b).ingest rx := rfl

theorem ingest_frame (rx : List Byte) (s : State) :
    ∃ rb rbCnt, s.ingest rx = { s with rb := rb, rbCnt := rbCnt } := by
  induction rx generalizing s with
  | nil => exact ⟨s.rb, s.rbCnt, rfl⟩
  | cons b rx ih =>
    obtain ⟨_, _, hbyte⟩ := ingestByte_frame s b
    obtain ⟨rb, rbCnt, hrest⟩ := ih (s.ingestByte b)
    exact ⟨rb, rbCnt, by rw [ingest_cons, hrest, hbyte]⟩

theorem ingest_held (rx : List Byte) {s : State} (h : s.BufferHeld) (hcap : s.rbCnt ≤ s.cfg.c)
    (hpos : 0 < s.cfg.c) :
    (s.ingest rx).BufferHeld ∧ (s.ingest rx).bytes = (s.bytes ++ rx).rtake s.cfg.c := by
  induction rx generalizing s with
  | nil =>
    refine ⟨h, ?_⟩
    rw [List.append_nil, rtake_of_length_le ((length_bytes_held h).trans_le hcap)]
    rfl
  | cons b rx ih =>
    obtain ⟨hheld, hbytes⟩ := ingestByte_held h hcap hpos b
    have hcap' : (s.ingestByte b).rbCnt ≤ (s.ingestByte b).cfg.c := by
      rw [← length_bytes_held hheld, hbytes, length_rtake, State.ingestByte_cfg]
      exact Nat.min_le_left ..
    obtain ⟨hheld', hbytes'⟩ := ih hheld hcap' (by rwa [State.ingestByte_cfg])
    refine ⟨hheld', ?_⟩
    rw [ingest_cons, hbytes', hbytes, State.ingestByte_cfg, rtake_rtake_append, List.append_assoc,
      List.singleton_append]

/-- Settles O19: `ingest_held` gives the bytes of the final buffer, `read_held` what its positions hold, and
RB_CNT is their number. -/
theorem ingestKeepsTheNewestBytes : Obligations.IngestKeepsTheNewestBytes := by
  intro rx s h hcap hpos
  obtain ⟨hheld, hbytes⟩ := ingest_held rx h hcap hpos
  have hlen : (s.bytes ++ rx).length = s.rbCnt + rx.length := by
    rw [List.length_append, length_bytes_held h]
  refine ⟨s.ingest rx, rfl, ?count, ?newest, length_bytes_held hheld, read_held hheld, ?frame⟩
  case count => rw [← length_bytes_held hheld, hbytes, length_rtake, hlen]
  case newest =>
    rw [hbytes, List.rtake, hlen]
    congr 1
    omega
  case frame =>
    obtain ⟨_, _, hframe⟩ := ingest_frame rx s
    rw [hframe]

end Sys2Proof.Machine
end

section
/-! PROOFS. Serialisation (41_scheduler.md R91): the byte lists are the definitions, and each function is injective
because the port's reader inverts its writer: a peer that reads the bytes gets the inputs back. -/

namespace Sys2Proof.Machine

/-! ### Readers of a packet's fields against their payloads -/

theorem takeInd_indPayload (v : IndSample) (rest : List Byte) :
    takeInd (indPayload v ++ rest) = .ok (v, rest) := rfl

theorem takePlot_plotPayload (v : PlotSample) (rest : List Byte) :
    takePlot (plotPayload v ++ rest) = .ok (v, rest) := rfl

theorem takePan_panPayload (ord : U16Order) (v : PanSample) (rest : List Byte) :
    takePan ord (panPayload ord v ++ rest) = .ok (v, rest) := by
  simp only [takePan, panPayload, List.append_assoc, takeU16_put16, bind, Except.bind]
  rfl

theorem takeInp_inpPayload (ord : U16Order) (v : InpSample) (rest : List Byte) :
    takeInp ord (inpPayload ord v ++ rest) = .ok (v, rest) := by
  simp only [takeInp, inpPayload, List.append_assoc, takeU16_put16, bind, Except.bind]
  rfl

theorem takeSen_senPayload (ord : U16Order) (v : SenSample) (rest : List Byte) :
    takeSen ord (senPayload ord v ++ rest) = .ok (v, rest) := by
  simp only [takeSen, senPayload, List.append_assoc, takeU16_put16, bind, Except.bind]
  rfl

/-! ### The names packet -/

/-- One (length, name-bytes) tuple (30_encoding.md R64), the writer that `takeName` reads. -/
def nameTuple (name : List Byte) : List Byte := [BitVec.ofNat 8 name.length] ++ name

theorem namesPayload_eq_flatMap (names : List (List Byte)) :
    namesPayload names = names.flatMap nameTuple := by
  induction names with
  | nil => rfl
  | cons name names ih =>
    rw [namesPayload, ih, List.flatMap_cons]
    rfl

theorem catalogFits_iff (names : List (List Byte)) :
    catalogFits names = true ↔ names.length ≤ 255 ∧ ∀ name ∈ names, name.length ≤ 255 := by
  simp only [catalogFits, Bool.and_eq_true, List.all_eq_true, decide_eq_true_eq]

/-- A count or a length that is u8 is carried whole by its byte. -/
theorem toNat_lengthByte {n : Nat} (h : n ≤ 255) : (BitVec.ofNat 8 n).toNat = n := by
  rw [BitVec.toNat_ofNat]
  omega

theorem takeName_nameTuple {name : List Byte} (h : name.length ≤ 255) (rest : List Byte) :
    takeName (nameTuple name ++ rest) = .ok (name, rest) := by
  simp only [takeName, nameTuple, List.cons_append, List.nil_append, takeByte_cons, bind, Except.bind,
    toNat_lengthByte h, takeBytes_append]

theorem takeNames_namesPayload {names : List (List Byte)} (h : catalogFits names = true)
    (rest : List Byte) :
    takeNames (BitVec.ofNat 8 names.length :: namesPayload names ++ rest) = .ok (names, rest) := by
  obtain ⟨hcount, hlengths⟩ := (catalogFits_iff names).mp h
  simp only [takeNames, List.cons_append, takeByte_cons, bind, Except.bind, toNat_lengthByte hcount,
    namesPayload_eq_flatMap]
  exact takeMany_flatMap takeName nameTuple names rest fun name hmem r =>
    takeName_nameTuple (hlengths name hmem) r

/-! ### Injectivity from a reader -/

/-- A reader answers once, so what it reads from equal bytes is equal. -/
theorem eq_of_reads {α : Type} {read : List Byte → Except DecodeError (α × List Byte)}
    {bs bs' rest rest' : List Byte} {x x' : α} (hbytes : bs = bs')
    (h : read bs = .ok (x, rest)) (h' : read bs' = .ok (x', rest')) : x = x' := by
  have hsame : Except.ok (x, rest) = Except.ok (x', rest') := h.symm.trans (hbytes ▸ h')
  exact (Prod.mk.inj (Except.ok.inj hsame)).1

/-- Fields that a reader gets back from their payload are determined by the packet. -/
theorem withChecksum_injective {α : Type} {t : PacketType} {put : α → List Byte}
    {read : List Byte → Except DecodeError (α × List Byte)}
    (hread : ∀ v rest, read (put v ++ rest) = .ok (v, rest)) (v v' : α)
    (h : withChecksum t (put v) = withChecksum t (put v')) : v = v' := by
  simp only [withChecksum, List.append_assoc, List.append_cancel_left_eq] at h
  exact eq_of_reads h (hread v _) (hread v' _)

theorem packCfg_injective (names names' : List (List Byte)) (hfits : catalogFits names = true)
    (hfits' : catalogFits names' = true) (h : packCfg names = packCfg names') : names = names' := by
  have hbytes := congrArg (· ++ []) (List.append_cancel_left h)
  exact eq_of_reads hbytes (takeNames_namesPayload hfits []) (takeNames_namesPayload hfits' [])

theorem packCfg_eq (names : List (List Byte)) :
    packCfg names = [0xCC, 0x44] ++ [BitVec.ofNat 8 names.length] ++ names.flatMap nameTuple := by
  rw [packCfg, namesPayload_eq_flatMap]
  rfl

/-- Settles O17: the bytes are those of the definitions, with `packCfg_eq` for the names packet; injectivity is
`withChecksum_injective` with each packet's reader, and `packCfg_injective`. -/
theorem serialisationIsAsGivenAndInjective : Obligations.SerialisationIsAsGivenAndInjective :=
  ⟨fun _ => rfl, fun _ => rfl, fun _ _ => rfl, fun _ _ => rfl, fun _ _ => rfl, packCfg_eq,
    withChecksum_injective takeInd_indPayload,
    withChecksum_injective takePlot_plotPayload,
    fun ord => withChecksum_injective (takePan_panPayload ord),
    fun ord => withChecksum_injective (takeInp_inpPayload ord),
    fun ord => withChecksum_injective (takeSen_senPayload ord),
    packCfg_injective⟩

end Sys2Proof.Machine
end

section
/-! PROOFS. The decoder against the encoder (30_encoding.md sections 1, 3 and 4): every writer is
read back by its reader, so `decode` inverts `encode`; and every reader answers values that the port
can carry, so whatever `decode` answers is well-formed. -/

namespace Sys2Proof.Machine

/-! ### Readers of whole operands against their writers -/

theorem takeSample_putSample (v : Sample) (rest : List Byte) :
    takeSample (putSample v ++ rest) = .ok (v, rest) := by
  simp only [takeSample, putSample, List.append_assoc, takeInd_indPayload, takePlot_plotPayload,
    takePan_panPayload, takeInp_inpPayload, takeSen_senPayload, bind, Except.bind]
  rfl

theorem takeEnableRow_putEnableRow (row : Nat × ChannelEnables) (h : fitsPort row.1 = true)
    (rest : List Byte) : takeEnableRow (putEnableRow row ++ rest) = .ok (row, rest) := by
  simp only [takeEnableRow, putEnableRow, List.append_assoc, List.cons_append, List.nil_append,
    takeNat_putNat _ _ h, takeByte_cons, enablesOfByte_byteOfEnables, bind, Except.bind]
  rfl

theorem takeEnableTable_putEnableTable (rows : List (Nat × ChannelEnables))
    (hcount : fitsPort rows.length = true) (hmodes : ∀ row ∈ rows, fitsPort row.1 = true)
    (rest : List Byte) : takeEnableTable (putEnableTable rows ++ rest) = .ok (rows, rest) := by
  simp only [takeEnableTable, putEnableTable, List.append_assoc, takeNat_putNat _ _ hcount, bind,
    Except.bind]
  exact takeMany_flatMap _ _ _ _ fun row hmem r => takeEnableRow_putEnableRow row (hmodes row hmem) r

theorem takeCatalog_putCatalog (names : List (List Byte)) (hcount : fitsPort names.length = true)
    (hlengths : ∀ name ∈ names, fitsPort name.length = true) (rest : List Byte) :
    takeCatalog (putCatalog names ++ rest) = .ok (names, rest) := by
  simp only [takeCatalog, putCatalog, List.append_assoc, takeNat_putNat _ _ hcount, bind, Except.bind]
  exact takeMany_flatMap _ _ _ _ fun name hmem r => takeString_putString name r (hlengths name hmem)

/-- A configuration the port can carry: its eleven naturals and counts, the modes of CH_EN, and the
lengths of the names. -/
theorem paramsFitsPort_iff (p : Params) :
    p.fitsPort = true ↔
      (∀ n ∈ [p.c, p.w, p.tInd, p.tPlot, p.tRwin, p.tRint, p.tInp, p.tSen, p.mode, p.chEn.length,
          p.names.length], fitsPort n = true)
        ∧ (∀ row ∈ p.chEn, fitsPort row.1 = true)
        ∧ ∀ name ∈ p.names, fitsPort name.length = true := by
  simp only [Params.fitsPort, Bool.and_eq_true, List.all_eq_true, and_assoc]

theorem takeConfig_putConfig (op : CfgOperand) (h : op.toParams.fitsPort = true) (rest : List Byte) :
    takeConfig (putConfig op ++ rest) = .ok (op, rest) := by
  obtain ⟨hnats, hmodes, hlengths⟩ := (paramsFitsPort_iff op.toParams).mp h
  simp only [List.forall_mem_cons, List.not_mem_nil, false_imp_iff, implies_true, and_true] at hnats
  obtain ⟨hc, hw, hInd, hPlot, hRwin, hRint, hInp, hSen, hmode, hrows, hnames⟩ := hnats
  have hlisted : ∀ j < 13, (0x1FFF : U16).getLsbD j = true := by decide
  simp only [takeConfig, putConfig, List.append_assoc, List.cons_append, List.nil_append, takeU16_put16,
    bind, Except.bind, takeListed, hlisted, Nat.reduceLT, if_true, takeBit_putBit, takeByte_cons,
    takeNat_putNat _ _ hc, takeNat_putNat _ _ hw, takeNat_putNat _ _ hInd, takeNat_putNat _ _ hPlot,
    takeNat_putNat _ _ hRwin, takeNat_putNat _ _ hRint, takeNat_putNat _ _ hInp,
    takeNat_putNat _ _ hSen, takeNat_putNat _ _ hmode,
    takeEnableTable_putEnableTable _ hrows hmodes, takeCatalog_putCatalog _ hnames hlengths]
  rfl

/-! ### Packets -/

/-- The fields of a State packet after its header. -/
def stateFields (ord : U16Order) (p : StatePacket) : List Byte :=
  statePayload ord p ++ [p.csum, p.trl0, p.trl1]

theorem packState_eq (ord : U16Order) (p : StatePacket) :
    packState ord p = [0xAA, 0x55] ++ stateFields ord p := by
  rw [packState, stateFields, List.append_assoc]
  rfl

theorem takeState_stateFields (ord : U16Order) (p : StatePacket) (rest : List Byte) :
    takeState ord (stateFields ord p ++ rest) = .ok (p, rest) := by
  simp only [takeState, stateFields, statePayload, List.append_assoc, takeU16_put16, List.cons_append,
    List.nil_append, takeByte_cons, bind, Except.bind]
  rfl

theorem takeChecksum_sum8 (payload : List Byte) : takeChecksum payload [sum8 payload] = .ok () := by
  simp only [takeChecksum, takeByte_cons, bind, Except.bind, if_true]
  rfl

/-- A packet's header selects its type (30_encoding.md R53, R54). -/
theorem decodePacket_header (ord : U16Order) (now : Nat) (connected : Bool) (t : PacketType)
    (fields : List Byte) :
    decodePacket ord now connected (headerBytes t ++ fields) = decodeFields ord now connected t fields := by
  cases t <;> rfl

theorem decodePacket_withChecksum (ord : U16Order) (now : Nat) (connected : Bool) (t : PacketType)
    (payload : List Byte) :
    decodePacket ord now connected (withChecksum t payload)
      = decodeFields ord now connected t (payload ++ [sum8 payload]) := by
  rw [withChecksum, List.append_assoc, decodePacket_header]

/-- A reader that answers hands its value to the rest of the decoder. -/
theorem bind_of_eq_ok {α β : Type} {read : Except DecodeError α} {x : α} (h : read = .ok x)
    (rest : α → Except DecodeError β) : read >>= rest = rest x := by
  rw [h]
  rfl

/-- Fields that their reader gets back, with their checksum after them, make the packet's
instruction. -/
theorem decode_checked {α : Type} {put : α → List Byte}
    {read : List Byte → Except DecodeError (α × List Byte)}
    (hread : ∀ v rest, read (put v ++ rest) = .ok (v, rest)) (v : α) (instr : α → Instr) :
    (read (put v ++ [sum8 (put v)]) >>= fun (v, bs) =>
      takeChecksum (put v) bs >>= fun _ => pure (instr v)) = .ok (instr v) :=
  (bind_of_eq_ok (hread v _) _).trans (bind_of_eq_ok (takeChecksum_sum8 (put v)) _)

/-- Settles O10: per instruction, the reader of its operands gives back what the encoder wrote. -/
theorem decodeOfEncodeGivesTheInstruction : Obligations.DecodeOfEncodeGivesTheInstruction := by
  intro ord i hwf
  cases i with
  | nop | drain | reserved101 | reserved110 | event => rfl
  | ingest rx =>
    have hread := takeString_putString rx [] hwf
    rw [List.append_nil] at hread
    exact bind_of_eq_ok hread _
  | tick now connected v =>
    have hread := takeSample_putSample v []
    rw [List.append_nil] at hread
    simp only [decode, encode, decodeCommand, List.append_assoc, takeNat_putNat now _ hwf,
      takeBit_putBit, hread, bind, Except.bind]
    rfl
  | configReq connected => exact bind_of_eq_ok (takeBit_putBit connected []) _
  | reset op =>
    have hread := takeConfig_putConfig op hwf []
    rw [List.append_nil] at hread
    exact bind_of_eq_ok hread _
  | state p =>
    have hread := takeState_stateFields ord p []
    rw [List.append_nil] at hread
    simp only [decode, encode, packState_eq]
    exact (decodePacket_header ord 0 false .state _).trans (bind_of_eq_ok hread _)
  | configNames connected names =>
    have hread := takeNames_namesPayload hwf []
    rw [List.append_nil] at hread
    exact (decodePacket_header ..).trans (bind_of_eq_ok hread _)
  | panel now connected v =>
    exact (decodePacket_withChecksum ..).trans
      (decode_checked (takePan_panPayload ord) v (.panel now connected))
  | indicator now connected v =>
    exact (decodePacket_withChecksum ..).trans
      (decode_checked takeInd_indPayload v (.indicator now connected))
  | plot now connected v =>
    exact (decodePacket_withChecksum ..).trans
      (decode_checked takePlot_plotPayload v (.plot now connected))
  | inputTelemetry now connected v =>
    exact (decodePacket_withChecksum ..).trans
      (decode_checked (takeInp_inpPayload ord) v (.inputTelemetry now connected))
  | sensorTelemetry now connected v =>
    exact (decodePacket_withChecksum ..).trans
      (decode_checked (takeSen_senPayload ord) v (.sensorTelemetry now connected))

/-! ### What the readers answer can be carried -/

theorem bind_eq_ok {α β : Type} {read : Except DecodeError α} {rest : α → Except DecodeError β}
    {y : β} (h : read >>= rest = .ok y) : ∃ x, read = .ok x ∧ rest x = .ok y := by
  cases read with
  | error e => exact nomatch h
  | ok x => exact ⟨x, rfl, h⟩

theorem takeBytes_length {n : Nat} {bs xs rest : List Byte} (h : takeBytes n bs = .ok (xs, rest)) :
    xs.length = n := by
  unfold takeBytes at h
  split at h
  case isTrue hle =>
    obtain ⟨rfl, -⟩ := Prod.mk.inj (Except.ok.inj h)
    exact List.length_take_of_le hle
  case isFalse => exact nomatch h

/-- A natural operand has at most 255 digits. -/
theorem takeNat_fitsPort {bs rest : List Byte} {n : Nat} (h : takeNat bs = .ok (n, rest)) :
    fitsPort n = true := by
  unfold takeNat at h
  split at h
  case h_1 => exact nomatch h
  case h_2 k digitsOn _ =>
    split at h
    case h_1 => exact nomatch h
    case h_2 digits rest' hdigits =>
      obtain ⟨rfl, -⟩ := Prod.mk.inj (Except.ok.inj h)
      have hlen : digits.length ≤ 255 := (takeBytes_length hdigits).trans_le (Nat.le_of_lt_succ k.isLt)
      exact decide_eq_true ((leNat_lt digits).trans_le (Nat.pow_le_pow_right (by omega) hlen))

theorem takeString_fitsPort {bs rest xs : List Byte} (h : takeString bs = .ok (xs, rest)) :
    fitsPort xs.length = true := by
  obtain ⟨⟨n, bs'⟩, hn, hbytes⟩ := bind_eq_ok h
  rw [takeBytes_length hbytes]
  exact takeNat_fitsPort hn

/-- What holds of every item a reader answers holds of all items of a list, which has the length
asked for. -/
theorem takeMany_forall {α : Type} {item : List Byte → Except DecodeError (α × List Byte)}
    {P : α → Prop} (hitem : ∀ bs x rest, item bs = .ok (x, rest) → P x) {n : Nat}
    {bs rest : List Byte} {xs : List α} (h : takeMany item n bs = .ok (xs, rest)) :
    xs.length = n ∧ ∀ x ∈ xs, P x := by
  induction n generalizing bs rest xs with
  | zero =>
    obtain ⟨rfl, -⟩ := Prod.mk.inj (Except.ok.inj h)
    exact ⟨rfl, nofun⟩
  | succ n ih =>
    simp only [takeMany] at h
    split at h
    case h_1 => exact nomatch h
    case h_2 x bs' hx =>
      split at h
      case h_1 => exact nomatch h
      case h_2 ys rest' hys =>
        obtain ⟨rfl, -⟩ := Prod.mk.inj (Except.ok.inj h)
        obtain ⟨hlen, hall⟩ := ih hys
        exact ⟨congrArg Nat.succ hlen, List.forall_mem_cons.mpr ⟨hitem _ _ _ hx, hall⟩⟩

/-- A listed value has the property its reader gives, an unlisted one that of its default. -/
theorem takeListed_spec {α : Type} {item : List Byte → Except DecodeError (α × List Byte)}
    {P : α → Prop} (hitem : ∀ bs x rest, item bs = .ok (x, rest) → P x) {listed : Bool} {dflt x : α}
    (hdflt : P dflt) {bs rest : List Byte} (h : takeListed listed dflt item bs = .ok (x, rest)) : P x := by
  unfold takeListed at h
  split at h
  case isTrue => exact hitem _ _ _ h
  case isFalse =>
    obtain ⟨rfl, -⟩ := Prod.mk.inj (Except.ok.inj h)
    exact hdflt

theorem takeEnableRow_fitsPort {bs rest : List Byte} {row : Nat × ChannelEnables}
    (h : takeEnableRow bs = .ok (row, rest)) : fitsPort row.1 = true := by
  obtain ⟨⟨mode, _⟩, hmode, h⟩ := bind_eq_ok h
  obtain ⟨⟨b, _⟩, -, h⟩ := bind_eq_ok h
  obtain ⟨rfl, -⟩ := Prod.mk.inj (Except.ok.inj h)
  exact takeNat_fitsPort hmode

theorem takeEnableTable_fitsPort {bs rest : List Byte} {rows : List (Nat × ChannelEnables)}
    (h : takeEnableTable bs = .ok (rows, rest)) :
    fitsPort rows.length = true ∧ ∀ row ∈ rows, fitsPort row.1 = true := by
  obtain ⟨⟨n, bs'⟩, hn, hrows⟩ := bind_eq_ok h
  obtain ⟨hlen, hall⟩ := takeMany_forall (fun _ _ _ => takeEnableRow_fitsPort) hrows
  exact ⟨hlen ▸ takeNat_fitsPort hn, hall⟩

theorem takeCatalog_fitsPort {bs rest : List Byte} {names : List (List Byte)}
    (h : takeCatalog bs = .ok (names, rest)) :
    fitsPort names.length = true ∧ ∀ name ∈ names, fitsPort name.length = true := by
  obtain ⟨⟨n, bs'⟩, hn, hnames⟩ := bind_eq_ok h
  obtain ⟨hlen, hall⟩ := takeMany_forall (fun _ _ _ => takeString_fitsPort) hnames
  exact ⟨hlen ▸ takeNat_fitsPort hn, hall⟩

/-- A natural that RESET lists was read, and one that it does not list has its small value of
00_scope.md R6. -/
theorem takeListedNat_fitsPort {listed : Bool} {dflt n : Nat} {bs rest : List Byte}
    (hdflt : dflt ≤ 500) (h : takeListed listed dflt takeNat bs = .ok (n, rest)) : fitsPort n = true :=
  takeListed_spec (P := fun n => fitsPort n = true) (fun _ _ _ => takeNat_fitsPort)
    (decide_eq_true (hdflt.trans_lt (by norm_num [portNatBound]))) h

theorem takeConfig_fitsPort {bs rest : List Byte} {op : CfgOperand}
    (h : takeConfig bs = .ok (op, rest)) : op.toParams.fitsPort = true := by
  obtain ⟨⟨mask, _⟩, -, h⟩ := bind_eq_ok h
  obtain ⟨⟨c, _⟩, hc, h⟩ := bind_eq_ok h
  obtain ⟨⟨w, _⟩, hw, h⟩ := bind_eq_ok h
  obtain ⟨⟨tInd, _⟩, hInd, h⟩ := bind_eq_ok h
  obtain ⟨⟨tPlot, _⟩, hPlot, h⟩ := bind_eq_ok h
  obtain ⟨⟨tRwin, _⟩, hRwin, h⟩ := bind_eq_ok h
  obtain ⟨⟨tRint, _⟩, hRint, h⟩ := bind_eq_ok h
  obtain ⟨⟨tInp, _⟩, hInp, h⟩ := bind_eq_ok h
  obtain ⟨⟨tSen, _⟩, hSen, h⟩ := bind_eq_ok h
  obtain ⟨⟨validate, _⟩, -, h⟩ := bind_eq_ok h
  obtain ⟨⟨order, _⟩, -, h⟩ := bind_eq_ok h
  obtain ⟨⟨mode, _⟩, hmode, h⟩ := bind_eq_ok h
  obtain ⟨⟨chEn, _⟩, hchEn, h⟩ := bind_eq_ok h
  obtain ⟨⟨names, _⟩, hnames, h⟩ := bind_eq_ok h
  obtain ⟨rfl, -⟩ := Prod.mk.inj (Except.ok.inj h)
  obtain ⟨hrows, hmodes⟩ := takeListed_spec (fun _ _ _ => takeEnableTable_fitsPort)
    ⟨by decide, List.forall_mem_nil _⟩ hchEn
  obtain ⟨hcount, hlengths⟩ := takeListed_spec (fun _ _ _ => takeCatalog_fitsPort)
    ⟨by decide, List.forall_mem_nil _⟩ hnames
  refine (paramsFitsPort_iff _).mpr ⟨?nats, hmodes, hlengths⟩
  simp only [List.forall_mem_cons, List.not_mem_nil, false_imp_iff, implies_true, and_true]
  exact ⟨takeListedNat_fitsPort (by decide) hc, takeListedNat_fitsPort (by decide) hw,
    takeListedNat_fitsPort (by decide) hInd, takeListedNat_fitsPort (by decide) hPlot,
    takeListedNat_fitsPort (by decide) hRwin, takeListedNat_fitsPort (by decide) hRint,
    takeListedNat_fitsPort (by decide) hInp, takeListedNat_fitsPort (by decide) hSen,
    takeListedNat_fitsPort (by decide) hmode, hrows, hcount⟩

theorem takeName_length {bs rest name : List Byte} (h : takeName bs = .ok (name, rest)) :
    name.length ≤ 255 := by
  obtain ⟨⟨n, _⟩, -, hbytes⟩ := bind_eq_ok h
  exact (takeBytes_length hbytes).trans_le (Nat.le_of_lt_succ n.isLt)

/-- A u8 count and u8 lengths give a catalog that they can describe. -/
theorem takeNames_catalogFits {bs rest : List Byte} {names : List (List Byte)}
    (h : takeNames bs = .ok (names, rest)) : catalogFits names = true := by
  obtain ⟨⟨k, bs'⟩, -, hnames⟩ := bind_eq_ok h
  obtain ⟨hlen, hall⟩ := takeMany_forall (fun _ _ _ => takeName_length) hnames
  exact (catalogFits_iff names).mpr ⟨hlen.trans_le (Nat.le_of_lt_succ k.isLt), hall⟩

/-! ### What the decoder answers -/

theorem decodeCommand_wellFormed {code : BitVec 3} {bs : List Byte} {i : Instr}
    (h : decodeCommand code bs = .ok i) : i.wellFormed = true := by
  unfold decodeCommand at h
  split at h
  case h_1 | h_3 | h_6 | h_7 => obtain rfl := Except.ok.inj h; rfl
  case h_2 =>
    obtain ⟨⟨rx, _⟩, hrx, h⟩ := bind_eq_ok h
    obtain rfl := Except.ok.inj h
    exact takeString_fitsPort hrx
  case h_4 =>
    obtain ⟨⟨now, _⟩, hnow, h⟩ := bind_eq_ok h
    obtain ⟨_, -, h⟩ := bind_eq_ok h
    obtain ⟨_, -, h⟩ := bind_eq_ok h
    obtain rfl := Except.ok.inj h
    exact takeNat_fitsPort hnow
  case h_5 =>
    obtain ⟨_, -, h⟩ := bind_eq_ok h
    obtain rfl := Except.ok.inj h
    rfl
  case h_8 =>
    obtain ⟨⟨op, _⟩, hop, h⟩ := bind_eq_ok h
    obtain rfl := Except.ok.inj h
    exact takeConfig_fitsPort hop

/-- Of the packet rows only CONFIG_NAMES has a bound to meet. -/
theorem decodeFields_wellFormed {ord : U16Order} {now : Nat} {connected : Bool} {t : PacketType}
    {bs : List Byte} {i : Instr} (h : decodeFields ord now connected t bs = .ok i) :
    i.wellFormed = true := by
  cases t with
  | state =>
    obtain ⟨_, -, h⟩ := bind_eq_ok h
    obtain rfl := Except.ok.inj h
    rfl
  | configNames =>
    obtain ⟨⟨names, _⟩, hnames, h⟩ := bind_eq_ok h
    obtain rfl := Except.ok.inj h
    exact takeNames_catalogFits hnames
  | event | panel | indicator | plot | inputTelemetry | sensorTelemetry =>
    obtain ⟨_, -, h⟩ := bind_eq_ok h
    obtain ⟨_, -, h⟩ := bind_eq_ok h
    obtain rfl := Except.ok.inj h
    rfl

theorem decodePacket_wellFormed {ord : U16Order} {now : Nat} {connected : Bool} {bs : List Byte}
    {i : Instr} (h : decodePacket ord now connected bs = .ok i) : i.wellFormed = true := by
  obtain ⟨⟨a, _⟩, -, h⟩ := bind_eq_ok h
  obtain ⟨⟨b, _⟩, -, h⟩ := bind_eq_ok h
  dsimp only at h
  split at h
  case h_1 => exact decodeFields_wellFormed h
  case h_2 => exact nomatch h

/-- Settles O11: by the kind of record. -/
theorem decodedInstructionsAreWellFormed : Obligations.DecodedInstructionsAreWellFormed := by
  intro ord r i h
  cases r with
  | cmd code operands => exact decodeCommand_wellFormed h
  | pkt now connected bytes => exact decodePacket_wellFormed h

end Sys2Proof.Machine
end

section
/-! PROOFS. DRAIN (40_decoder.md section 3). The reference relation `Drains` determines what DRAIN
does on a held buffer (`execDrain_of_drains`), the continuing sweep is one derivation of it for any
bytes (`drains_sweep`), and everything else about DRAIN is a fact about `Drains` or a derivation
written out. -/

namespace Sys2Proof.Machine

/-! ### The relation `Drains` -/

theorem afterPacket_le {validate : Bool} {bs : List Byte} {i : Nat} {kind : PacketKind}
    (h : Acceptable validate bs i kind) : afterPacket i kind ≤ bs.length :=
  (afterPacket_eq i kind).trans_le (acceptable_length h)

theorem drains_quiet {validate : Bool} {bs rest : List Byte} {ps : List (PacketKind × List Byte)}
    (h : Drains validate bs ps rest) (i : Nat) (kind : PacketKind) :
    ¬ Acceptable validate rest i kind := by
  induction h with
  | done bs quiet => exact quiet i kind
  | accept bs i kind ps rest here lowest more ih => exact ih

/-- Each accepted packet removes at least its 4 bytes (40_decoder.md R86). -/
theorem drains_length {validate : Bool} {bs rest : List Byte} {ps : List (PacketKind × List Byte)}
    (h : Drains validate bs ps rest) : 4 * ps.length + rest.length ≤ bs.length := by
  induction h with
  | done bs quiet => simp
  | accept bs i kind ps rest here lowest more ih =>
    have hle := afterPacket_le here
    have hafter := afterPacket_eq i kind
    have hsize := packetSize_pos kind
    rw [List.length_drop] at ih
    rw [List.length_cons]
    omega

/-- Whether a candidate is acceptable is read from the bytes of its packet alone. -/
theorem acceptable_append {validate : Bool} {p : List Byte} {kind : PacketKind}
    (hlen : p.length = packetSize kind) (rest : List Byte) :
    Acceptable validate (p ++ rest) 0 kind ↔ Acceptable validate p 0 kind := by
  have hfront : ∀ j < packetSize kind, (p ++ rest)[j]? = p[j]? := fun j hj =>
    List.getElem?_append_left (hlen.symm ▸ hj)
  have hrange : ((p ++ rest).drop 2).take (packetSize kind - 5)
      = (p.drop 2).take (packetSize kind - 5) := by
    have hsize := packetSize_pos kind
    rw [List.drop_append_of_le_length (by omega), List.take_append_of_le_length]
    rw [List.length_drop]
    omega
  cases kind with
  | state =>
    simp only [packetSize, Nat.reduceSub] at hlen hfront hrange
    simp only [Acceptable, Nat.zero_add, hfront, Nat.reduceLT, hrange, List.length_append, hlen]
    simp
  | event =>
    simp only [packetSize] at hlen hfront
    simp only [Acceptable, Nat.zero_add, hfront, Nat.reduceLT, List.length_append, hlen]
    simp

theorem acceptable_packetAt {validate : Bool} {bs : List Byte} {i : Nat} {kind : PacketKind}
    (h : Acceptable validate bs i kind) :
    (packetAt bs i kind).length = packetSize kind ∧ Acceptable validate (packetAt bs i kind) 0 kind := by
  have hle := acceptable_length h
  have hlen : (packetAt bs i kind).length = packetSize kind := by
    rw [packetAt_eq, List.length_take, List.length_drop]
    omega
  refine ⟨hlen, (acceptable_append hlen ((bs.drop i).drop (packetSize kind))).mp ?_⟩
  rw [packetAt_eq, List.take_append_drop]
  exact (acceptable_drop validate bs i 0 kind (by omega)).mpr h

theorem drains_packets {validate : Bool} {bs rest : List Byte} {ps : List (PacketKind × List Byte)}
    (h : Drains validate bs ps rest) :
    ∀ q ∈ ps, q.2.length = packetSize q.1 ∧ Acceptable validate q.2 0 q.1 := by
  induction h with
  | done bs quiet => exact List.forall_mem_nil _
  | accept bs i kind ps rest here lowest more ih =>
    exact List.forall_mem_cons.mpr ⟨acceptable_packetAt here, ih⟩

/-! ### DRAIN on a held buffer -/

/-- What DRAIN leaves after it has accepted `ps` and left `rest`. -/
def State.drained (s : State) (ps : List (PacketKind × List Byte)) (rest : List Byte) : State :=
  { s with rb := cellsOf rest, rbCnt := rest.length, out := s.out ++ ps.flatMap packetRecords }

theorem drained_held (s : State) (ps : List (PacketKind × List Byte)) (rest : List Byte) :
    (s.drained ps rest).BufferHeld ∧ (s.drained ps rest).bytes = rest :=
  bufferHeld_of_cells rfl rfl

theorem drained_nil {s : State} (h : s.BufferHeld) : s.drained [] s.bytes = s := by
  obtain ⟨hrb, hlen⟩ := (bufferHeld_iff s).mp h
  rw [State.drained, ← hrb, hlen, List.flatMap_nil, List.append_nil]

theorem drained_consume (s : State) (i : Nat) (kind : PacketKind) (ps : List (PacketKind × List Byte))
    (rest : List Byte) :
    (s.consume i kind).drained ps rest = s.drained ((kind, packetAt s.bytes i kind) :: ps) rest := by
  simp only [State.drained, State.consume, State.compact_out, State.dispatch_out, List.flatMap_cons,
    packetRecords_eq, List.append_assoc, List.cons_append, List.nil_append]
  rfl

/-- The lowest acceptable position and its kind are unique. -/
theorem lowest_unique {validate : Bool} {bs : List Byte} {i j : Nat} {k k' : PacketKind}
    (hi : Acceptable validate bs i k) (hlow : ∀ n, n < i → ∀ q, ¬ Acceptable validate bs n q)
    (hj : Acceptable validate bs j k') (hlow' : ∀ n, n < j → ∀ q, ¬ Acceptable validate bs n q) :
    i = j ∧ k = k' := by
  have hij : i = j := by
    rcases Nat.lt_trichotomy i j with hlt | heq | hgt
    · exact absurd hi (hlow' i hlt k)
    · exact heq
    · exact absurd hj (hlow j hgt k')
  subst hij
  exact ⟨rfl, acceptable_kind_unique hi hj⟩

theorem drainLoop_of_drains {validate : Bool} {bs rest : List Byte}
    {ps : List (PacketKind × List Byte)} (h : Drains validate bs ps rest) {s : State} {fuel : Nat}
    (hheld : s.BufferHeld) (hbytes : s.bytes = bs) (hvalidate : s.cfg.validateCsum = validate)
    (hfuel : bs.length ≤ fuel) : drainLoop fuel s = .next (s.drained ps rest) := by
  induction h generalizing s fuel with
  | done bs quiet =>
    subst hbytes
    rw [drained_nil hheld]
    cases fuel with
    | zero => rfl
    | succ fuel =>
      rcases drainLoop_succ hheld fuel with ⟨hstop, -⟩ | ⟨i, kind, -, here, -⟩
      · exact hstop
      · exact absurd (hvalidate ▸ here) (quiet i kind)
  | accept bs i kind ps rest here lowest more ih =>
    subst hbytes hvalidate
    have hle := acceptable_length here
    have hsize := packetSize_pos kind
    cases fuel with
    | zero => omega
    | succ fuel =>
      rcases drainLoop_succ hheld fuel with ⟨-, quiet⟩ | ⟨j, kind', hpass, here', lowest'⟩
      · exact absurd here (quiet i kind)
      · obtain ⟨rfl, rfl⟩ := lowest_unique here lowest here' lowest'
        obtain ⟨hheld', hbytes'⟩ := consume_held hheld i kind
        rw [hpass, ih hheld' hbytes' rfl ?fuel, drained_consume]
        case fuel =>
          rw [List.length_drop, afterPacket_eq]
          omega

/-- The bytes of a held buffer and VALIDATE_CSUM determine what DRAIN does. -/
theorem execDrain_of_drains {s : State} (h : s.BufferHeld) {ps : List (PacketKind × List Byte)}
    {rest : List Byte} (hdrains : Drains s.cfg.validateCsum s.bytes ps rest) :
    exec .drain s = .next (s.drained ps rest) :=
  drainLoop_of_drains hdrains h rfl rfl (length_bytes_held h).le

/-! ### The continuing scan -/

/-- The sweep moves on over a byte whose position holds no acceptable candidate. -/
theorem sweep_skip {validate : Bool} {b : Byte} {bs : List Byte}
    (h : ∀ kind, ¬ Acceptable validate (b :: bs) 0 kind) (fuel : Nat) (kept : List Byte) :
    sweep validate (fuel + 1) kept (b :: bs) = sweep validate fuel (kept ++ [b]) bs := by
  rw [sweep]
  split
  case h_1 kind hverdict => exact absurd ((scanVerdict_accepted ..).mp hverdict) (h kind)
  all_goals rfl

theorem sweep_accept {validate : Bool} {b : Byte} {bs : List Byte} {kind : PacketKind}
    (h : Acceptable validate (b :: bs) 0 kind) (fuel : Nat) (kept : List Byte) :
    sweep validate (fuel + 1) kept (b :: bs)
      = ((kind, packetAt (b :: bs) 0 kind)
            :: (sweep validate fuel [] ((b :: bs).drop (packetSize kind))).1,
          (sweep validate fuel [] ((b :: bs).drop (packetSize kind))).2) := by
  rw [sweep, (scanVerdict_accepted ..).mpr h, packetAt_eq]
  rfl

theorem acceptable_after (validate : Bool) (kept bs : List Byte) (j : Nat) (kind : PacketKind) :
    Acceptable validate (kept ++ bs) (kept.length + j) kind ↔ Acceptable validate bs j kind := by
  rw [← acceptable_drop _ _ _ _ _ (by simp), List.drop_left]

theorem packetAt_after (kept bs : List Byte) (kind : PacketKind) :
    packetAt (kept ++ bs) kept.length kind = packetAt bs 0 kind := by
  rw [packetAt_eq, packetAt_eq, List.drop_left, List.drop_zero]

theorem drop_afterPacket (kept bs : List Byte) (kind : PacketKind) :
    (kept ++ bs).drop (afterPacket kept.length kind) = bs.drop (packetSize kind) := by
  rw [afterPacket_eq, List.drop_append, List.drop_eq_nil_of_le (by omega), List.nil_append,
    Nat.add_sub_cancel_left]

/-- Passing over every byte without a candidate leaves no candidate. -/
theorem quiet_of_kept {validate : Bool} {kept : List Byte}
    (h : ∀ j, j < kept.length → ∀ k, ¬ Acceptable validate (kept ++ []) j k) (i : Nat)
    (kind : PacketKind) : ¬ Acceptable validate (kept ++ []) i kind := by
  intro hacc
  have hle := acceptable_length hacc
  have hsize := packetSize_pos kind
  rw [List.append_nil] at hle
  exact h i (by omega) kind hacc

/-- A sweep that has passed over `kept` without a candidate accepts and leaves what the restarting
scan does from `kept ++ bs`. -/
theorem drains_sweep (validate : Bool) (fuel : Nat) (kept bs : List Byte) (hfuel : bs.length ≤ fuel)
    (hkept : ∀ j, j < kept.length → ∀ k, ¬ Acceptable validate (kept ++ bs) j k) :
    Drains validate (kept ++ bs) (sweep validate fuel kept bs).1 (sweep validate fuel kept bs).2 := by
  induction fuel generalizing kept bs with
  | zero =>
    obtain rfl := List.eq_nil_of_length_eq_zero (Nat.le_zero.mp hfuel)
    exact .done _ (quiet_of_kept hkept)
  | succ fuel ih =>
    cases bs with
    | nil =>
      have hdone := Drains.done _ (quiet_of_kept hkept)
      rw [List.append_nil] at hdone ⊢
      exact hdone
    | cons b bs =>
      by_cases hacc : ∃ kind, Acceptable validate (b :: bs) 0 kind
      case pos =>
        obtain ⟨kind, here⟩ := hacc
        have hsize := packetSize_pos kind
        have hmore := ih [] ((b :: bs).drop (packetSize kind))
          (by rw [List.length_drop]; omega) nofun
        rw [List.nil_append, ← drop_afterPacket kept] at hmore
        rw [sweep_accept here, ← packetAt_after kept, ← drop_afterPacket kept]
        exact .accept _ kept.length kind _ _ ((acceptable_after _ kept _ 0 kind).mpr here) hkept hmore
      case neg =>
        have hnone := not_exists.mp hacc
        rw [sweep_skip hnone, List.append_cons]
        refine ih (kept ++ [b]) bs (Nat.le_of_succ_le_succ hfuel) fun j hj k => ?_
        rw [← List.append_cons]
        rw [List.length_append, List.length_singleton] at hj
        rcases Nat.lt_succ_iff_lt_or_eq.mp hj with hlt | rfl
        · exact hkept j hlt k
        · exact fun h => hnone k ((acceptable_after _ kept _ 0 k).mp h)

/-- Every buffer drains, with what the sweep accepts and leaves. -/
theorem drains_sweep_bytes (validate : Bool) (bs : List Byte) :
    Drains validate bs (sweep validate bs.length [] bs).1 (sweep validate bs.length [] bs).2 :=
  drains_sweep validate bs.length [] bs le_rfl nofun

/-- DRAIN completes on every held buffer. -/
theorem execDrain_held {s : State} (h : s.BufferHeld) :
    ∃ ps rest, Drains s.cfg.validateCsum s.bytes ps rest ∧ exec .drain s = .next (s.drained ps rest) :=
  ⟨_, _, drains_sweep_bytes .., execDrain_of_drains h (drains_sweep_bytes ..)⟩

/-! ### The statements about every held buffer -/

/-- Settles O20: the derivation is the one `execDrain_held` gives. -/
theorem drainAcceptsLowestFirst : Obligations.DrainAcceptsLowestFirst := by
  intro s h
  obtain ⟨ps, rest, hdrains, hexec⟩ := execDrain_held h
  obtain ⟨hheld, hbytes⟩ := drained_held s ps rest
  exact ⟨s.drained ps rest, ps, hexec, hbytes.symm ▸ hdrains, length_bytes_held hheld, read_held hheld,
    rfl⟩

/-- Settles O21: the sweep is a derivation of `Drains` from the bytes of the buffer. -/
theorem restartingScanEqualsContinuingScan : Obligations.RestartingScanEqualsContinuingScan := by
  intro s h
  have hdrains := drains_sweep_bytes s.cfg.validateCsum s.bytes
  rw [length_bytes_held h] at hdrains
  exact ⟨_, execDrain_of_drains h hdrains, rfl, (drained_held s _ _).2⟩

/-- Settles O22: what stays is quiet, so `Drains.done` derives the second DRAIN. -/
theorem drainLeavesNoCandidate : Obligations.DrainLeavesNoCandidate := by
  intro s h
  obtain ⟨ps, rest, hdrains, hexec⟩ := execDrain_held h
  obtain ⟨hheld, hbytes⟩ := drained_held s ps rest
  have quiet : ∀ i kind, ¬ Acceptable s.cfg.validateCsum (s.drained ps rest).bytes i kind :=
    hbytes.symm ▸ drains_quiet hdrains
  exact ⟨s.drained ps rest, hexec, quiet,
    (execDrain_of_drains hheld (.done _ quiet)).trans (congrArg _ (drained_nil hheld))⟩

theorem dispRecords_packetRecords (ps : List (PacketKind × List Byte)) :
    dispRecords (ps.flatMap packetRecords) = ps.map fun q => dispRecordOf q.1 q.2 := by
  induction ps with
  | nil => rfl
  | cons q ps ih =>
    obtain ⟨kind, p⟩ := q
    rw [List.flatMap_cons, packetRecords_eq, List.map_cons, ← ih]
    rfl

/-- Settles O23: one DISP record per accepted packet, and `drains_length`. -/
theorem drainAcceptsAtMostAQuarter : Obligations.DrainAcceptsAtMostAQuarter := by
  intro s h
  obtain ⟨ps, rest, hdrains, hexec⟩ := execDrain_held h
  refine ⟨s.drained ps rest, ps.flatMap packetRecords, hexec, rfl, ?_⟩
  rw [dispRecords_packetRecords, List.length_map, ← length_bytes_held h]
  exact drains_length hdrains

/-- Settles O24: every accepted packet is whole and acceptable by itself. -/
theorem drainedPacketsPassTheChecksum : Obligations.DrainedPacketsPassTheChecksum := by
  intro s h hvalidate
  obtain ⟨ps, rest, hdrains, hexec⟩ := execDrain_held h
  refine ⟨s.drained ps rest, ps, hexec, rfl, fun k p hmem => ?_⟩
  obtain ⟨hlen, hacc⟩ := drains_packets hdrains (k, p) hmem
  constructor
  · rintro rfl
    obtain ⟨-, -, -, hsum⟩ := hacc
    exact ⟨hlen, hsum hvalidate⟩
  · rintro rfl
    obtain ⟨-, -, -, hsum⟩ := hacc
    exact ⟨hlen, hsum hvalidate⟩

/-! ### Buffers written out -/

/-- Noise, then one whole packet (40_decoder.md R87). -/
theorem drains_noise_packet {validate : Bool} {noise p : List Byte} {kind : PacketKind}
    (hlen : p.length = packetSize kind) (here : Acceptable validate (noise ++ p) noise.length kind)
    (hnoise : ∀ j, j < noise.length → ∀ k, ¬ Acceptable validate (noise ++ p) j k) :
    Drains validate (noise ++ p) [(kind, p)] [] := by
  have hwhole : packetAt (noise ++ p) noise.length kind = p := by
    rw [packetAt_after, packetAt_eq, List.drop_zero, ← hlen, List.take_length]
  have hrest : (noise ++ p).drop (afterPacket noise.length kind) = [] := by
    rw [drop_afterPacket, ← hlen, List.drop_length]
  have haccept := Drains.accept (noise ++ p) noise.length kind [] [] here hnoise
    (hrest.symm ▸ .done [] (not_acceptable_short (by simp)))
  rwa [hwhole] at haccept

theorem drains_packets_back_to_back {validate : Bool} (ps : List (PacketKind × List Byte))
    (h : ∀ q ∈ ps, q.2.length = packetSize q.1 ∧ Acceptable validate q.2 0 q.1) :
    Drains validate (ps.flatMap Prod.snd) ps [] := by
  induction ps with
  | nil => exact .done [] (not_acceptable_short (by simp))
  | cons q ps ih =>
    obtain ⟨kind, p⟩ := q
    obtain ⟨⟨hlen, hacc⟩, hrest⟩ := List.forall_mem_cons.mp h
    simp only at hlen hacc
    have hwhole : packetAt (p ++ ps.flatMap Prod.snd) 0 kind = p := by
      rw [packetAt_eq, List.drop_zero, ← hlen, List.take_left]
    have hmore : (p ++ ps.flatMap Prod.snd).drop (afterPacket 0 kind) = ps.flatMap Prod.snd := by
      rw [afterPacket_eq, Nat.zero_add, ← hlen, List.drop_left]
    have haccept := Drains.accept (p ++ ps.flatMap Prod.snd) 0 kind ps []
      ((acceptable_append hlen _).mpr hacc) nofun (hmore.symm ▸ ih hrest)
    rwa [hwhole] at haccept

/-- Settles O26: `drains_noise_packet` is the derivation. -/
theorem noiseThenPacketYieldsThePacket : Obligations.NoiseThenPacketYieldsThePacket := by
  intro s noise p kind h hbytes hlen here hnoise
  rw [afterPacket_eq, Nat.zero_add] at hlen
  rw [execDrain_of_drains h (hbytes.symm ▸ drains_noise_packet hlen here hnoise)]
  simp only [State.drained, List.flatMap_singleton]
  rfl

/-- Settles O27: `drains_packets_back_to_back` is the derivation. -/
theorem backToBackPacketsAllDispatched : Obligations.BackToBackPacketsAllDispatched := by
  intro s ps h hbytes hps
  refine execDrain_of_drains h (hbytes.symm ▸ drains_packets_back_to_back ps fun q hmem => ?_)
  obtain ⟨hlen, hacc⟩ := hps q.1 q.2 hmem
  exact ⟨by rw [hlen, afterPacket_eq, Nat.zero_add], hacc⟩

/-- A held buffer that is one whole acceptable packet. -/
theorem execDrain_one_packet {s : State} (h : s.BufferHeld) {kind : PacketKind} {p : List Byte}
    (hbytes : s.bytes = p) (hlen : p.length = packetSize kind)
    (hacc : Acceptable s.cfg.validateCsum p 0 kind) :
    exec .drain s
      = .next { s with rb := [], rbCnt := 0, out := s.out ++ packetRecords (kind, p) } :=
  noiseThenPacketYieldsThePacket s [] p kind h hbytes (by rw [hlen, afterPacket_eq, Nat.zero_add]) hacc
    nofun

theorem not_acceptable_state_short {validate : Bool} {bs : List Byte} (h : bs.length < 18) (i : Nat) :
    ¬ Acceptable validate bs i .state := by
  rintro ⟨-, -, hsize, -⟩
  omega

/-- Settles O29: the only position with room for an Event is 0, where the checksum test decides. -/
theorem rejectedEventStaysUnlessLegacy : Obligations.RejectedEventStaysUnlessLegacy := by
  intro s x y h hbytes hne
  refine ⟨fun hvalidate => ?validated, fun hlegacy => ?legacy⟩
  case validated =>
    have quiet : ∀ i kind, ¬ Acceptable s.cfg.validateCsum s.bytes i kind := by
      rw [hbytes]
      intro i kind hacc
      cases kind with
      | state => exact not_acceptable_state_short (by simp) i hacc
      | event =>
        obtain ⟨-, -, hsize, hsum⟩ := hacc
        obtain rfl : i = 0 := by simpa using hsize
        exact hne (Option.some.inj (hsum hvalidate)).symm
    exact (execDrain_of_drains h (.done _ quiet)).trans (congrArg _ (drained_nil h))
  case legacy =>
    exact execDrain_one_packet (kind := .event) h hbytes rfl
      ⟨rfl, rfl, by simp, fun hvalidate => absurd hvalidate (by simp [hlegacy])⟩

/-- Settles O30: the bytes before the Event are noise, because a State needs 18 bytes and no Event that
starts among them passes its tests. -/
theorem eventCapturesIncompleteState : Obligations.EventCapturesIncompleteState := by
  intro s a b x h hvalidate hbytes
  refine noiseThenPacketYieldsThePacket s [0xAA, 0x55, a, b] [0xBB, 0x66, x, x] .event h hbytes rfl
    ⟨rfl, rfl, by simp, fun _ => rfl⟩ fun j hj kind hacc => ?_
  cases kind with
  | state => exact not_acceptable_state_short (by simp) j hacc
  | event =>
    obtain ⟨hfirst, hsecond, -, hsum⟩ := hacc
    match j, hj with
    | 0, _ => simp at hfirst
    | 1, _ => simp at hfirst
    | 2, _ => simpa using hsum hvalidate
    | 3, _ => simp at hsecond

/-! ### A State packet on the wire -/

theorem statePayload_length (ord : U16Order) (p : StatePacket) : (statePayload ord p).length = 13 := by
  simp only [statePayload, List.length_append, put16_length, List.length_singleton]

theorem packState_length (ord : U16Order) (p : StatePacket) : (packState ord p).length = 18 := by
  rw [packState_eq, stateFields, List.length_append, List.length_append, statePayload_length]
  rfl

theorem packState_checksummed (ord : U16Order) (p : StatePacket) :
    ((packState ord p).drop 2).take 13 = statePayload ord p := by
  rw [packState_eq, stateFields]
  exact List.take_left' (statePayload_length ord p)

theorem packState_csum (ord : U16Order) (p : StatePacket) : (packState ord p)[15]? = some p.csum := by
  have h := List.getElem?_append_right (l₂ := [p.csum, p.trl0, p.trl1]) (i := 13)
    (statePayload_length ord p).le
  rw [statePayload_length] at h
  rw [packState_eq]
  exact h

theorem acceptable_packState (validate : Bool) (ord : U16Order) (p : StatePacket)
    (h : p.csum = sum8 (statePayload ord p)) : Acceptable validate (packState ord p) 0 .state := by
  refine ⟨rfl, rfl, (packState_length ord p).ge, fun _ => ?_⟩
  rw [packState_checksummed, ← h]
  exact packState_csum ord p

/-- Settles O16: each u16 field is two bytes that `F16` joins again. -/
theorem stateFieldsSurviveTheWire : Obligations.StateFieldsSurviveTheWire := by
  intro ord p
  obtain ⟨a0, b0, hput0, hjoin0⟩ := join16_put16 ord p.axis0
  obtain ⟨a1, b1, hput1, hjoin1⟩ := join16_put16 ord p.axis1
  obtain ⟨a2, b2, hput2, hjoin2⟩ := join16_put16 ord p.axis2
  obtain ⟨a3, b3, hput3, hjoin3⟩ := join16_put16 ord p.axis3
  obtain ⟨a4, b4, hput4, hjoin4⟩ := join16_put16 ord p.knob0
  obtain ⟨a5, b5, hput5, hjoin5⟩ := join16_put16 ord p.knob1
  have hbytes : packState ord p = [0xAA, 0x55, a0, b0, a1, b1, a2, b2, a3, b3, a4, b4, a5, b5, p.sw,
      p.csum, p.trl0, p.trl1] := by
    rw [packState, statePayload, hput0, hput1, hput2, hput3, hput4, hput5]
    rfl
  rw [hbytes]
  show some (StatePacket.mk (join16 ord a0 b0) (join16 ord a1 b1) (join16 ord a2 b2)
    (join16 ord a3 b3) (join16 ord a4 b4) (join16 ord a5 b5) _ _ _ _) = some p
  rw [hjoin0, hjoin1, hjoin2, hjoin3, hjoin4, hjoin5]

/-! ### From INGEST to DISP -/

/-- A whole packet ingested into an empty buffer and drained is dispatched, and nothing stays. -/
theorem ingest_drain_one_packet {s : State} (h : s.BufferHeld) (hempty : s.rbCnt = 0)
    (hcap : 18 ≤ s.cfg.c) {kind : PacketKind} {p : List Byte} (hlen : p.length = packetSize kind)
    (hacc : Acceptable s.cfg.validateCsum p 0 kind) :
    ∃ a, exec (.ingest p) s = .next a
      ∧ exec .drain a = .next { s with out := s.out ++ packetRecords (kind, p) } := by
  obtain ⟨hrb, hcount⟩ := (bufferHeld_iff s).mp h
  have hnone : s.bytes = [] := List.eq_nil_of_length_eq_zero (hcount.trans hempty)
  obtain ⟨hheld, hbytes⟩ := ingest_held p h (by omega) (by omega)
  obtain ⟨rb, rbCnt, hframe⟩ := ingest_frame p s
  have hsize : packetSize kind ≤ 18 := by cases kind <;> decide
  rw [hnone, List.nil_append, rtake_of_length_le (by omega)] at hbytes
  refine ⟨s.ingest p, rfl, ?_⟩
  rw [execDrain_one_packet hheld hbytes hlen (by rw [hframe]; exact hacc), hframe]
  have hrb' : s.rb = [] := by rw [hrb, hnone]; rfl
  simp only [hrb', hempty]

/-- Settles O28: `ingest_drain_one_packet` with the State packet's checksum and the Event's repeated
id. -/
theorem inboundPacketsRoundTrip : Obligations.InboundPacketsRoundTrip := by
  intro s h hempty hcap
  refine ⟨fun ord p hcsum => ?state, fun id => ?event⟩
  case state =>
    obtain ⟨a, hingest, hdrain⟩ := ingest_drain_one_packet h hempty hcap
      (packState_length ord p) (acceptable_packState s.cfg.validateCsum ord p hcsum)
    exact ⟨a, hingest, hdrain, stateFieldsSurviveTheWire ord p⟩
  case event =>
    exact ingest_drain_one_packet h hempty hcap (kind := .event) rfl
      ⟨rfl, rfl, by simp, fun _ => rfl⟩

/-! ### Flipped bits -/

/-- Two byte lists that differ in one byte only have different sums. -/
theorem sum8_set_inj {bs : List Byte} {j : Nat} (hj : j < bs.length) {x : Byte}
    (h : sum8 (bs.set j x) = sum8 bs) : x = bs[j] := by
  induction bs generalizing j with
  | nil => exact absurd hj (Nat.not_lt_zero j)
  | cons b bs ih =>
    cases j with
    | zero => exact (BitVec.add_left_inj (sum8 bs)).mp h
    | succ j => exact ih (Nat.lt_of_succ_lt_succ hj) ((BitVec.add_right_inj b).mp h)

theorem checksumOk_iff (kind : PacketKind) (p : List Byte) :
    checksumOk kind p = true
      ↔ p[checksumAt kind]? = some (sum8 ((p.drop 2).take (checksumAt kind - 2))) := by
  rw [checksumOk, beq_iff_eq]

/-- Changing one byte of the checksummed range, or the checksum byte, makes a packet that passes
fail. -/
theorem checksumOk_set {kind : PacketKind} {p : List Byte} {k : Nat} {x : Byte}
    (hlen : p.length = packetSize kind) (hlow : 2 ≤ k) (hhigh : k ≤ checksumAt kind)
    (hok : checksumOk kind p = true) (hx : x ≠ p.getD k 0) : checksumOk kind (p.set k x) = false := by
  have hcsum : checksumAt kind < p.length := by rw [hlen]; cases kind <;> decide
  have hk : k < p.length := hhigh.trans_lt hcsum
  rw [List.getD_eq_getElem p 0 hk] at hx
  rw [← Bool.not_eq_true]
  intro hok'
  rw [checksumOk_iff] at hok hok'
  rw [List.drop_set, if_neg (Nat.not_lt.mpr hlow)] at hok'
  rcases hhigh.lt_or_eq with hrange | rfl
  · rw [List.getElem?_set_ne hrange.ne, hok, Option.some_inj, List.take_set] at hok'
    have hj : k - 2 < ((p.drop 2).take (checksumAt kind - 2)).length := by
      rw [List.length_take, List.length_drop]
      omega
    refine hx ((sum8_set_inj hj hok'.symm).trans ?_)
    simp only [List.getElem_take, List.getElem_drop, Nat.add_sub_cancel' hlow]
  · rw [List.getElem?_set_self hk, List.take_set_of_le le_rfl, ← hok, List.getElem?_eq_getElem hk,
      Option.some_inj] at hok'
    exact hx hok'

theorem xor_twoPow_ne (b : Byte) (i : Fin 8) : b ^^^ BitVec.twoPow 8 i ≠ b := by
  have hbit : ∀ i : Fin 8, BitVec.twoPow 8 i ≠ 0#8 := by decide
  intro h
  exact hbit i ((BitVec.xor_right_inj b).mp (h.trans BitVec.xor_zero.symm))

/-- Settles O25: a flip changes the byte, and `checksumOk_set` says what that does, for both packets. -/
theorem singleBitFlipFailsTheChecksum : Obligations.SingleBitFlipFailsTheChecksum :=
  ⟨fun _ _ _ hlen hlow hhigh hok => checksumOk_set hlen hlow hhigh hok (xor_twoPow_ne _ _),
    fun _ _ _ hlen hlow hhigh hok => checksumOk_set hlen hlow hhigh hok (xor_twoPow_ne _ _)⟩

end Sys2Proof.Machine
end

section
/-! PROOFS. The turns of the scheduler's channels (41_scheduler.md sections 3 to 5), each said once
as an equation: the four fixed-cadence channels as one kind of channel (`FixedChannel`), the Panel
channel, and the names channel. What a turn does depends on the configuration and the channel's own
registers alone. -/

namespace Sys2Proof.Machine

/-! ### The four fixed-cadence channels -/

/-- One of the fixed-cadence channels (41_scheduler.md section 3): its column of CH_EN, its
interval, and its last-send register with the laws of reading and writing it. -/
structure FixedChannel where
  channel : Channel
  interval : Params → Nat
  last : State → Nat
  setLast : State → Nat → State
  setLast_last : ∀ s, setLast s (last s) = s
  last_setLast : ∀ s n, last (setLast s n) = n
  last_emit : ∀ s r, last (s.emit r) = last s
  setLast_cfg : ∀ s n, (setLast s n).cfg = s.cfg
  setLast_out : ∀ s n, (setLast s n).out = s.out
  setLast_inv : ∀ s n, s.Inv → n < 2 ^ s.cfg.w → (setLast s n).Inv

def indChannel : FixedChannel where
  channel := .ind
  interval := Params.tInd
  last := State.indLast
  setLast s n := { s with indLast := n }
  setLast_last _ := rfl
  last_setLast _ _ := rfl
  last_emit _ _ := rfl
  setLast_cfg _ _ := rfl
  setLast_out _ _ := rfl
  setLast_inv := by
    rintro s n ⟨hcfg, hheld, hcap, ⟨-, plot, inp, sen, rest⟩, hpanel⟩ hn
    exact ⟨hcfg, hheld, hcap, ⟨hn, plot, inp, sen, rest⟩, hpanel⟩

def plotChannel : FixedChannel where
  channel := .plot
  interval := Params.tPlot
  last := State.plotLast
  setLast s n := { s with plotLast := n }
  setLast_last _ := rfl
  last_setLast _ _ := rfl
  last_emit _ _ := rfl
  setLast_cfg _ _ := rfl
  setLast_out _ _ := rfl
  setLast_inv := by
    rintro s n ⟨hcfg, hheld, hcap, ⟨ind, -, inp, sen, rest⟩, hpanel⟩ hn
    exact ⟨hcfg, hheld, hcap, ⟨ind, hn, inp, sen, rest⟩, hpanel⟩

def inpChannel : FixedChannel where
  channel := .inp
  interval := Params.tInp
  last := State.inpLast
  setLast s n := { s with inpLast := n }
  setLast_last _ := rfl
  last_setLast _ _ := rfl
  last_emit _ _ := rfl
  setLast_cfg _ _ := rfl
  setLast_out _ _ := rfl
  setLast_inv := by
    rintro s n ⟨hcfg, hheld, hcap, ⟨ind, plot, -, sen, rest⟩, hpanel⟩ hn
    exact ⟨hcfg, hheld, hcap, ⟨ind, plot, hn, sen, rest⟩, hpanel⟩

def senChannel : FixedChannel where
  channel := .sen
  interval := Params.tSen
  last := State.senLast
  setLast s n := { s with senLast := n }
  setLast_last _ := rfl
  last_setLast _ _ := rfl
  last_emit _ _ := rfl
  setLast_cfg _ _ := rfl
  setLast_out _ _ := rfl
  setLast_inv := by
    rintro s n ⟨hcfg, hheld, hcap, ⟨ind, plot, inp, -, rest⟩, hpanel⟩ hn
    exact ⟨hcfg, hheld, hcap, ⟨ind, plot, inp, hn, rest⟩, hpanel⟩

namespace FixedChannel

variable (ch : FixedChannel) (s : State) (now later : Nat) (connected connected' : Bool)
  (pkt pkt' : List Byte)

/-- The channel is enabled, the peer connected, and the interval has been exceeded (41_scheduler.md
R93). -/
abbrev Due : Prop :=
  channelEnabled s.cfg.toParams ch.channel = true ∧ connected = true
    ∧ ch.interval s.cfg.toParams < elapsed s.cfg.w now (ch.last s)

/-- The state after the channel has sent `pkt`. -/
def sent : State := ch.setLast (s.emit (.tx pkt)) now

/-- The channel's turn, as the four turns of the model are built. -/
def turn : State :=
  if channelEnabled s.cfg.toParams ch.channel then
    let (s', last) := s.fixed (ch.last s) (ch.interval s.cfg.toParams) now connected pkt
    ch.setLast s' last
  else s

/-- A turn sends exactly when it is due. -/
theorem turn_eq : ch.turn s now connected pkt
    = if ch.Due s now connected then ch.sent s now pkt else s := by
  unfold turn
  split
  case isTrue hen =>
    rcases fixed_cases s (ch.last s) (ch.interval s.cfg.toParams) now connected pkt
      with ⟨hdue, hfixed⟩ | ⟨hnot, hfixed⟩
    · rw [hfixed, if_pos ⟨hen, hdue⟩]
      rfl
    · rw [hfixed, if_neg fun hdue => hnot hdue.2]
      exact ch.setLast_last s
  case isFalse hdis => rw [if_neg fun hdue => hdis hdue.1]

theorem turn_disabled (h : channelEnabled s.cfg.toParams ch.channel = false) :
    ch.turn s now connected pkt = s := by
  rw [turn_eq, if_neg fun hdue => absurd hdue.1 (by simp [h])]

theorem turn_disconnected : ch.turn s now false pkt = s := by
  rw [turn_eq, if_neg fun hdue => absurd hdue.2.1 Bool.false_ne_true]

theorem turn_cfg : (ch.turn s now connected pkt).cfg = s.cfg := by
  rw [turn_eq]
  split
  · exact ch.setLast_cfg _ _
  · rfl

/-- Within its interval after a send the channel is not due (70_reset_and_hazards.md R142). -/
theorem turn_after_send (hsent : (ch.turn s now connected pkt).out ≠ s.out)
    (hnear : elapsed s.cfg.w (nowOnPort s.cfg.w later) now ≤ ch.interval s.cfg.toParams) :
    ch.turn (ch.turn s now connected pkt)
        (nowOnPort (ch.turn s now connected pkt).cfg.w later) connected' pkt'
      = ch.turn s now connected pkt := by
  rw [turn_cfg, turn_eq ch s]
  by_cases hdue : ch.Due s now connected
  · rw [if_pos hdue, sent, turn_eq, if_neg]
    rintro ⟨-, -, hfar⟩
    rw [ch.setLast_cfg, ch.last_setLast] at hfar
    exact absurd hfar (Nat.not_lt.mpr hnear)
  · rw [turn_eq, if_neg hdue] at hsent
    exact absurd rfl hsent

/-- A turn writes the channel's register and appends its packet at most, by its own register and the
configuration alone. -/
theorem turn_effect : ∃ pkts : List (List Byte), pkts.length ≤ 1
    ∧ ∀ u : State, u.cfg = s.cfg → ch.last u = ch.last s →
      ch.turn u now connected pkt
        = ch.setLast { u with out := u.out ++ pkts.map PortRecord.tx }
            (ch.last (ch.turn s now connected pkt)) := by
  by_cases hdue : ch.Due s now connected
  · refine ⟨[pkt], le_rfl, fun u hcfg hlast => ?_⟩
    have hdue' : ch.Due u now connected := by simpa only [Due, hcfg, hlast] using hdue
    rw [turn_eq, if_pos hdue', turn_eq, if_pos hdue, sent, sent, ch.last_setLast]
    rfl
  · refine ⟨[], Nat.zero_le 1, fun u hcfg hlast => ?_⟩
    have hdue' : ¬ ch.Due u now connected := by simpa only [Due, hcfg, hlast] using hdue
    rw [turn_eq, if_neg hdue', turn_eq, if_neg hdue, ← hlast, List.map_nil, List.append_nil]
    exact (ch.setLast_last u).symm

end FixedChannel

/-! ### The fixed turns of the model -/

theorem indicatorTurn_eq (s : State) (now : Nat) (connected : Bool) (v : IndSample) :
    s.indicatorTurn now connected v = indChannel.turn s now connected (packInd v) := rfl

theorem plotTurn_eq (s : State) (now : Nat) (connected : Bool) (v : PlotSample) :
    s.plotTurn now connected v = plotChannel.turn s now connected (packPlot v) := rfl

theorem inputTurn_eq (s : State) (now : Nat) (connected : Bool) (v : InpSample) :
    s.inputTurn now connected v = inpChannel.turn s now connected (packInp s.cfg.u16Order v) := rfl

theorem sensorTurn_eq (s : State) (now : Nat) (connected : Bool) (v : SenSample) :
    s.sensorTurn now connected v = senChannel.turn s now connected (packSen s.cfg.u16Order v) := rfl

/-- Settles O33: `FixedChannel.turn_eq` of the Indicator channel. -/
theorem indicatorTurnSendsWhenDue : Obligations.IndicatorTurnSendsWhenDue := fun now connected v s =>
  congrArg Host.Outcome.next (indChannel.turn_eq s (nowOnPort s.cfg.w now) connected (packInd v))

/-- Settles O34: `FixedChannel.turn_eq` of the Plot channel. -/
theorem plotTurnSendsWhenDue : Obligations.PlotTurnSendsWhenDue := fun now connected v s =>
  congrArg Host.Outcome.next (plotChannel.turn_eq s (nowOnPort s.cfg.w now) connected (packPlot v))

/-- Settles O35: `FixedChannel.turn_eq` of the Input-telemetry channel. -/
theorem inputTurnSendsWhenDue : Obligations.InputTurnSendsWhenDue := fun now connected v s =>
  congrArg Host.Outcome.next
    (inpChannel.turn_eq s (nowOnPort s.cfg.w now) connected (packInp s.cfg.u16Order v))

/-- Settles O36: `FixedChannel.turn_eq` of the Sensor-telemetry channel. -/
theorem sensorTurnSendsWhenDue : Obligations.SensorTurnSendsWhenDue := fun now connected v s =>
  congrArg Host.Outcome.next
    (senChannel.turn_eq s (nowOnPort s.cfg.w now) connected (packSen s.cfg.u16Order v))

/-- Settles O44: each channel's turn is a `FixedChannel.turn`, and `turn_after_send` says it of them
all. -/
theorem fixedChannelsKeepTheirDistance : Obligations.FixedChannelsKeepTheirDistance := by
  intro now later connected s
  refine ⟨fun v v' t h hsent hnear => ?ind, fun v v' t h hsent hnear => ?plot,
    fun v v' t h hsent hnear => ?inp, fun v v' t h hsent hnear => ?sen⟩ <;>
  obtain rfl := Host.Outcome.next.inj h
  case ind => exact congrArg _ (indChannel.turn_after_send s _ later true connected _ _ hsent hnear)
  case plot => exact congrArg _ (plotChannel.turn_after_send s _ later true connected _ _ hsent hnear)
  case inp => exact congrArg _ (inpChannel.turn_after_send s _ later true connected _ _ hsent hnear)
  case sen => exact congrArg _ (senChannel.turn_after_send s _ later true connected _ _ hsent hnear)

/-! ### The Panel channel -/

/-- A new value opens the window or starts it again (41_scheduler.md R99). -/
def State.panelOpen (s : State) (now : Nat) (l r : U16) : State :=
  { s with panPendL := l, panPendR := r, panWopen := true, panWstart := now, panForce := true }

/-- The pending value has been sent (41_scheduler.md R100). -/
def State.panelSent (s : State) (now : Nat) (flags : Byte) : State :=
  { s.emit (.tx (packPanel s.cfg.u16Order ⟨s.panPendL, s.panPendR, flags⟩)) with
    panLastTx := now, panForce := false }

@[simp] theorem elapsed_self (w t : Nat) : elapsed w t t = 0 := by simp [elapsed]

theorem panelSend_eq (s : State) (now : Nat) (connected : Bool) (flags : Byte) :
    s.panelSend now connected flags
      = if connected = true ∧ (s.panForce = true ∨ s.cfg.tRint ≤ elapsed s.cfg.w now s.panLastTx) then
          s.panelSent now flags
        else s := by
  rcases panelSend_cases s now connected flags with ⟨hdue, hsend⟩ | ⟨hnot, hsend⟩
  · rw [hsend, if_pos hdue]
    rfl
  · rw [hsend, if_neg hnot]

/-- A changed value, at a turn of an enabled channel. The window that has just opened runs unless it
has no length, and its first send is forced. -/
theorem panelStep_changed {s : State} {now : Nat} {connected : Bool} {v : PanSample}
    (h : (v.l, v.r) ≠ s.panelRef) :
    s.panelStep now connected v
      = if s.cfg.tRwin = 0 then (s.panelOpen now v.l v.r).panelClose
        else if connected = true then (s.panelOpen now v.l v.r).panelSent now v.flags
        else s.panelOpen now v.l v.r := by
  have hopen : s.panelDetect now v.l v.r = s.panelOpen now v.l v.r := if_pos h
  have hrunning : windowRunning s.cfg.w s.cfg.tRwin now now = decide (0 < s.cfg.tRwin) := by
    rw [windowRunning, elapsed_self]
  show (if (s.panelDetect now v.l v.r).panWopen then _ else _) = _
  rw [hopen]
  show (if windowRunning s.cfg.w s.cfg.tRwin now now then
    (s.panelOpen now v.l v.r).panelSend now connected v.flags
    else (s.panelOpen now v.l v.r).panelClose) = _
  rw [hrunning, panelSend_eq]
  by_cases hlength : s.cfg.tRwin = 0
  · rw [if_pos hlength, if_neg (by simp [hlength])]
  · rw [if_neg hlength, if_pos (by simpa using Nat.pos_of_ne_zero hlength)]
    cases connected <;> simp [State.panelOpen]

/-- An unchanged value: only an open window acts. -/
theorem panelStep_unchanged {s : State} {now : Nat} {connected : Bool} {v : PanSample}
    (h : (v.l, v.r) = s.panelRef) :
    s.panelStep now connected v
      = if s.panWopen = false then s
        else if elapsed s.cfg.w now s.panWstart < s.cfg.tRwin then
          if connected = true ∧ (s.panForce = true ∨ s.cfg.tRint ≤ elapsed s.cfg.w now s.panLastTx) then
            s.panelSent now v.flags
          else s
        else s.panelClose := by
  have hkept : s.panelDetect now v.l v.r = s := if_neg (not_not.mpr h)
  simp only [State.panelStep, hkept, panelSend_eq, windowRunning, decide_eq_true_eq]
  cases s.panWopen <;> rfl

/-- The whole of a Panel turn (41_scheduler.md R98 to R104). -/
theorem panelTurn_eq (s : State) (now : Nat) (connected : Bool) (v : PanSample) :
    s.panelTurn now connected v
      = if channelEnabled s.cfg.toParams .panel = false then s
        else if (v.l, v.r) ≠ s.panelRef then
          if s.cfg.tRwin = 0 then (s.panelOpen now v.l v.r).panelClose
          else if connected = true then (s.panelOpen now v.l v.r).panelSent now v.flags
          else s.panelOpen now v.l v.r
        else if s.panWopen = false then s
        else if elapsed s.cfg.w now s.panWstart < s.cfg.tRwin then
          if connected = true ∧ (s.panForce = true ∨ s.cfg.tRint ≤ elapsed s.cfg.w now s.panLastTx) then
            s.panelSent now v.flags
          else s
        else s.panelClose := by
  unfold State.panelTurn
  cases hen : channelEnabled s.cfg.toParams .panel
  case false => rfl
  case true =>
    rw [if_pos rfl, if_neg (by simp)]
    by_cases hchanged : (v.l, v.r) ≠ s.panelRef
    · rw [if_pos hchanged, panelStep_changed hchanged]
    · rw [if_neg hchanged, panelStep_unchanged (not_not.mp hchanged)]

/-- Settles O37: `panelTurn_eq`, with the updates written out. -/
theorem panelTurnFollowsTheWindow : Obligations.PanelTurnFollowsTheWindow := fun now connected v s =>
  congrArg Host.Outcome.next (panelTurn_eq s (nowOnPort s.cfg.w now) connected v)

/-- A change at a disconnected turn opens a window that has a length, and sends nothing. -/
theorem panelTurn_opens_unsent {s : State} {now : Nat} {v : PanSample}
    (hen : channelEnabled s.cfg.toParams .panel = true) (hchanged : (v.l, v.r) ≠ s.panelRef)
    (hwin : 0 < s.cfg.tRwin) : s.panelTurn now false v = s.panelOpen now v.l v.r := by
  rw [panelTurn_eq, if_neg (by simp [hen]), if_pos hchanged, if_neg hwin.ne', if_neg Bool.false_ne_true]

/-- The first turn at or after the end of the window commits the pending value (41_scheduler.md
R101). -/
theorem panelTurn_closes {s : State} {now : Nat} {connected : Bool} {v : PanSample}
    (hen : channelEnabled s.cfg.toParams .panel = true) (hsame : (v.l, v.r) = s.panelRef)
    (hopen : s.panWopen = true) (hend : s.cfg.tRwin ≤ elapsed s.cfg.w now s.panWstart) :
    s.panelTurn now connected v = s.panelClose := by
  rw [panelTurn_eq, if_neg (by simp [hen]), if_neg (not_not.mpr hsame), if_neg (by simp [hopen]),
    if_neg (Nat.not_lt.mpr hend)]

theorem panelTurn_idle {s : State} {now : Nat} {connected : Bool} {v : PanSample}
    (hsame : (v.l, v.r) = s.panelRef) (hclosed : s.panWopen = false) :
    s.panelTurn now connected v = s := by
  rw [panelTurn_eq, if_neg (not_not.mpr hsame), if_pos hclosed, ite_self]

/-- Settles O45: the change opens the window, its end closes it unsent, and the committed value is
no change any more. -/
theorem unsentPanelChangeIsCommitted : Obligations.UnsentPanelChangeIsCommitted := by
  intro t1 t2 t3 v v' v'' s hen hclosed hchanged hwin hl hr hl' hr' hend
  have hopen : exec (.panel t1 false v) s
      = .next (s.panelOpen (nowOnPort s.cfg.w t1) v.l v.r) := by
    refine congrArg Host.Outcome.next (panelTurn_opens_unsent hen ?_ hwin)
    rwa [State.panelRef, hclosed]
  have hclose : exec (.panel t2 false v') (s.panelOpen (nowOnPort s.cfg.w t1) v.l v.r)
      = .next (s.panelOpen (nowOnPort s.cfg.w t1) v.l v.r).panelClose := by
    refine congrArg Host.Outcome.next (panelTurn_closes hen ?_ rfl hend)
    rw [hl, hr]
    rfl
  refine ⟨_, _, hopen, hclose, ?committed, congrArg Host.Outcome.next (panelTurn_idle ?same rfl)⟩
  case committed =>
    simp only [State.panelOpen, State.panelClose, nowOnPort, hclosed]
  case same =>
    rw [hl', hr']
    rfl

/-! ### A disconnected peer -/

/-- While the peer is disconnected a Panel turn writes the window's registers and the two pairs
alone. -/
theorem panelTurn_disconnected (s : State) (now : Nat) (v : PanSample) :
    ∃ sentL sentR pendL pendR wopen wstart force, s.panelTurn now false v
      = { s with panLsentL := sentL, panLsentR := sentR, panPendL := pendL, panPendR := pendR,
                 panWopen := wopen, panWstart := wstart, panForce := force } := by
  rw [panelTurn_eq]
  split
  case isTrue => exact ⟨_, _, _, _, _, _, _, rfl⟩
  case isFalse =>
    simp only [Bool.false_eq_true, false_and, if_false]
    split_ifs <;> exact ⟨_, _, _, _, _, _, _, rfl⟩

theorem tick_disconnected (s : State) (now : Nat) (v : Sample) :
    s.tick now false v = s.panelTurn now false v.pan := by
  simp only [State.tick, indicatorTurn_eq, plotTurn_eq, inputTurn_eq, sensorTurn_eq,
    FixedChannel.turn_disconnected]

/-- Settles O42: only the Panel turn of a disconnected tick acts, and not on the fields named. -/
theorem disconnectedTickSendsNothing : Obligations.DisconnectedTickSendsNothing := by
  intro now v s
  refine ⟨_, congrArg Host.Outcome.next (tick_disconnected s (nowOnPort s.cfg.w now) v), ?_⟩
  obtain ⟨_, _, _, _, _, _, _, hpanel⟩ := panelTurn_disconnected s (nowOnPort s.cfg.w now) v.pan
  rw [hpanel]
  exact ⟨rfl, rfl, rfl, rfl, rfl, rfl, rfl, rfl, rfl⟩

/-! ### The names channel -/

theorem namesTurn_eq (s : State) (connected : Bool) (names : List (List Byte)) :
    s.namesTurn connected names
      = if channelEnabled s.cfg.toParams .cfg = true ∧ connected = true then
          s.emit (.tx (packCfg names))
        else s := by
  rw [State.namesTurn]
  split
  case isTrue hen =>
    rw [send_eq]
    cases connected
    · rw [if_neg Bool.false_ne_true, if_neg fun h => Bool.false_ne_true h.2]
    · rw [if_pos rfl, if_pos ⟨hen, rfl⟩]
  case isFalse hdis => rw [if_neg fun h => hdis h.1]

/-- The names turn in the bytes of 30_encoding.md R64. -/
theorem namesTurn_bytes (s : State) (connected : Bool) (names : List (List Byte)) :
    s.namesTurn connected names
      = if channelEnabled s.cfg.toParams .cfg = true ∧ connected = true then
          { s with out := s.out ++ [.tx ([0xCC, 0x44, BitVec.ofNat 8 names.length]
              ++ names.flatMap (fun name => BitVec.ofNat 8 name.length :: name))] }
        else s := by
  rw [namesTurn_eq, packCfg_eq]
  rfl

theorem packCfg_length (names : List (List Byte)) :
    (packCfg names).length = 3 + (names.map fun name => 1 + name.length).sum := by
  rw [packCfg_eq, List.length_append, List.length_flatMap]
  congr 3
  funext name
  exact Nat.add_comm _ _

/-- Settles O38: `namesTurn_bytes` and `packCfg_length`; a u8 count or length is carried whole. -/
theorem namesPacketIsSentAsGiven : Obligations.NamesPacketIsSentAsGiven := by
  intro connected names s hcount hlengths
  refine ⟨congrArg _ (namesTurn_bytes s connected names), ?length, toNat_lengthByte hcount,
    fun name hmem => toNat_lengthByte (hlengths name hmem)⟩
  case length =>
    have hlength := packCfg_length names
    rwa [packCfg_eq] at hlength

/-- Settles O39: CONFIG_REQ is the names turn of the catalog. -/
theorem configRequestSendsTheCatalog : Obligations.ConfigRequestSendsTheCatalog :=
  fun connected s => congrArg _ (namesTurn_bytes s connected s.cfg.names)

/-! ### The whole tick -/

theorem SchedulerOnly.cfg_eq {s t : State} (h : SchedulerOnly s t) : t.cfg = s.cfg := by
  obtain ⟨hcfg, -⟩ := h
  exact hcfg

/-- A turn that leaves the configuration alone leaves the width of `now` (notes/assumptions/7.md). -/
theorem next_of_cfg (turn : Nat → State) {s t : State} (h : t.cfg = s.cfg) (now : Nat) :
    (.next (turn (nowOnPort t.cfg.w now)) : Host.Outcome State Fault Refusal)
      = .next (turn (nowOnPort s.cfg.w now)) := by
  rw [h]

/-- Settles O40: the turns of a tick leave the configuration, so each has the same `now`. -/
theorem tickRunsTheChannelsInOrder : Obligations.TickRunsTheChannelsInOrder := by
  intro now connected v s
  have hcfg1 := (indicatorTurn_frame s (nowOnPort s.cfg.w now) connected v.ind).cfg_eq
  have hcfg2 := (plotTurn_frame _ (nowOnPort s.cfg.w now) connected v.plot).cfg_eq.trans hcfg1
  have hcfg3 := (panelTurn_frame _ (nowOnPort s.cfg.w now) connected v.pan).cfg_eq.trans hcfg2
  have hcfg4 := (inputTurn_frame _ (nowOnPort s.cfg.w now) connected v.inp).cfg_eq.trans hcfg3
  exact ⟨_, _, _, _, _, rfl, next_of_cfg (State.plotTurn _ · connected v.plot) hcfg1 now,
    next_of_cfg (State.panelTurn _ · connected v.pan) hcfg2 now,
    next_of_cfg (State.inputTurn _ · connected v.inp) hcfg3 now,
    next_of_cfg (State.sensorTurn _ · connected v.sen) hcfg4 now, rfl⟩

/-! ### What a turn reads and writes -/

theorem indicatorTurn_effect (s : State) (now : Nat) (connected : Bool) (v : IndSample) :
    ∃ pkts : List (List Byte), pkts.length ≤ 1 ∧ ∀ u : State, u.cfg = s.cfg → u.indLast = s.indLast →
      u.indicatorTurn now connected v
        = { u with indLast := (s.indicatorTurn now connected v).indLast,
                   out := u.out ++ pkts.map PortRecord.tx } :=
  indChannel.turn_effect s now connected (packInd v)

theorem plotTurn_effect (s : State) (now : Nat) (connected : Bool) (v : PlotSample) :
    ∃ pkts : List (List Byte), pkts.length ≤ 1 ∧ ∀ u : State, u.cfg = s.cfg → u.plotLast = s.plotLast →
      u.plotTurn now connected v
        = { u with plotLast := (s.plotTurn now connected v).plotLast,
                   out := u.out ++ pkts.map PortRecord.tx } :=
  plotChannel.turn_effect s now connected (packPlot v)

theorem inputTurn_effect (s : State) (now : Nat) (connected : Bool) (v : InpSample) :
    ∃ pkts : List (List Byte), pkts.length ≤ 1 ∧ ∀ u : State, u.cfg = s.cfg → u.inpLast = s.inpLast →
      u.inputTurn now connected v
        = { u with inpLast := (s.inputTurn now connected v).inpLast,
                   out := u.out ++ pkts.map PortRecord.tx } := by
  obtain ⟨pkts, hlen, hturn⟩ := inpChannel.turn_effect s now connected (packInp s.cfg.u16Order v)
  refine ⟨pkts, hlen, fun u hcfg hlast => ?_⟩
  rw [inputTurn_eq u, congrArg Cfg.u16Order hcfg]
  exact hturn u hcfg hlast

theorem sensorTurn_effect (s : State) (now : Nat) (connected : Bool) (v : SenSample) :
    ∃ pkts : List (List Byte), pkts.length ≤ 1 ∧ ∀ u : State, u.cfg = s.cfg → u.senLast = s.senLast →
      u.sensorTurn now connected v
        = { u with senLast := (s.sensorTurn now connected v).senLast,
                   out := u.out ++ pkts.map PortRecord.tx } := by
  obtain ⟨pkts, hlen, hturn⟩ := senChannel.turn_effect s now connected (packSen s.cfg.u16Order v)
  refine ⟨pkts, hlen, fun u hcfg hlast => ?_⟩
  rw [sensorTurn_eq u, congrArg Cfg.u16Order hcfg]
  exact hturn u hcfg hlast

/-- `u` with the Panel registers of `t`. -/
def State.withPanel (u t : State) : State :=
  { u with panLsentL := t.panLsentL, panLsentR := t.panLsentR, panPendL := t.panPendL,
           panPendR := t.panPendR, panWopen := t.panWopen, panWstart := t.panWstart,
           panLastTx := t.panLastTx, panForce := t.panForce }

/-- What a Panel turn can do. -/
inductive PanelAction where
  | idle | openAndClose | openAndSend | openUnsent | send | close

/-- What a Panel turn does, by the configuration and the Panel registers. -/
def State.panelAction (s : State) (now : Nat) (connected : Bool) (v : PanSample) : PanelAction :=
  if channelEnabled s.cfg.toParams .panel = false then .idle
  else if (v.l, v.r) ≠ s.panelRef then
    if s.cfg.tRwin = 0 then .openAndClose
    else if connected = true then .openAndSend
    else .openUnsent
  else if s.panWopen = false then .idle
  else if elapsed s.cfg.w now s.panWstart < s.cfg.tRwin then
    if connected = true ∧ (s.panForce = true ∨ s.cfg.tRint ≤ elapsed s.cfg.w now s.panLastTx) then .send
    else .idle
  else .close

/-- The state after an action. -/
def PanelAction.run (a : PanelAction) (now : Nat) (v : PanSample) (s : State) : State :=
  match a with
  | .idle => s
  | .openAndClose => (s.panelOpen now v.l v.r).panelClose
  | .openAndSend => (s.panelOpen now v.l v.r).panelSent now v.flags
  | .openUnsent => s.panelOpen now v.l v.r
  | .send => s.panelSent now v.flags
  | .close => s.panelClose

/-- The packets of an action. -/
def PanelAction.packets (a : PanelAction) (v : PanSample) (s : State) : List (List Byte) :=
  match a with
  | .openAndSend => [packPanel s.cfg.u16Order v]
  | .send => [packPanel s.cfg.u16Order ⟨s.panPendL, s.panPendR, v.flags⟩]
  | .idle => []
  | .openAndClose => []
  | .openUnsent => []
  | .close => []

theorem panelTurn_eq_run (s : State) (now : Nat) (connected : Bool) (v : PanSample) :
    s.panelTurn now connected v = (s.panelAction now connected v).run now v s := by
  rw [panelTurn_eq, State.panelAction]
  split_ifs <;> rfl

theorem panelAction_congr {s u : State} (hcfg : u.cfg = s.cfg) (hpanel : u.withPanel s = u) (now : Nat)
    (connected : Bool) (v : PanSample) : u.panelAction now connected v = s.panelAction now connected v := by
  rw [← hpanel]
  simp only [State.panelAction, State.withPanel, State.panelRef, hcfg]
  rfl

theorem PanelAction.run_congr {s u : State} (hcfg : u.cfg = s.cfg) (hpanel : u.withPanel s = u)
    (a : PanelAction) (now : Nat) (v : PanSample) :
    a.run now v u
      = { u.withPanel (a.run now v s) with out := u.out ++ (a.packets v s).map PortRecord.tx } := by
  rw [← hpanel]
  cases a with
  | openAndSend | send => simp only [PanelAction.run, PanelAction.packets, ← hcfg]; rfl
  | idle | openAndClose | openUnsent | close =>
    simp only [PanelAction.packets, List.map_nil, List.append_nil]
    rfl

/-- A Panel turn writes the Panel registers and appends one packet at most, by those registers and the
configuration alone. -/
theorem panelTurn_effect (s : State) (now : Nat) (connected : Bool) (v : PanSample) :
    ∃ pkts : List (List Byte), pkts.length ≤ 1 ∧ (∀ p ∈ pkts, p.take 2 = headerBytes .panel)
      ∧ ∀ u : State, u.cfg = s.cfg → u.withPanel s = u →
        u.panelTurn now connected v
          = { u.withPanel (s.panelTurn now connected v) with
              out := u.out ++ pkts.map PortRecord.tx } := by
  refine ⟨(s.panelAction now connected v).packets v s, ?length, ?header, fun u hcfg hpanel => ?run⟩
  case length => cases s.panelAction now connected v <;> simp [PanelAction.packets]
  case header =>
    cases s.panelAction now connected v with
    | openAndSend | send => exact List.forall_mem_singleton.mpr rfl
    | idle | openAndClose | openUnsent | close => exact List.forall_mem_nil _
  case run =>
    rw [panelTurn_eq_run, panelTurn_eq_run, panelAction_congr hcfg hpanel]
    exact PanelAction.run_congr hcfg hpanel _ now v

/-- `u` with the scheduler's registers of `t` (10_state.md R13). -/
def State.withScheduler (u t : State) : State :=
  { u.withPanel t with indLast := t.indLast, plotLast := t.plotLast, inpLast := t.inpLast,
                       senLast := t.senLast }

/-- A tick is its five turns side by side: each channel's registers and packets are those of its
turn alone, and all of it is determined by the configuration and the scheduler's registers. -/
theorem tick_effect (s : State) (now : Nat) (connected : Bool) (v : Sample) :
    ∃ ind plot pan inp sen : List (List Byte),
      ind.length + plot.length + pan.length + inp.length + sen.length ≤ 5
        ∧ (s.indicatorTurn now connected v.ind).out = s.out ++ ind.map PortRecord.tx
        ∧ (s.plotTurn now connected v.plot).out = s.out ++ plot.map PortRecord.tx
        ∧ (s.panelTurn now connected v.pan).out = s.out ++ pan.map PortRecord.tx
        ∧ (s.inputTurn now connected v.inp).out = s.out ++ inp.map PortRecord.tx
        ∧ (s.sensorTurn now connected v.sen).out = s.out ++ sen.map PortRecord.tx
        ∧ ∀ u : State, u.cfg = s.cfg → u.withScheduler s = u → u.tick now connected v
          = { u.withPanel (s.panelTurn now connected v.pan) with
              indLast := (s.indicatorTurn now connected v.ind).indLast,
              plotLast := (s.plotTurn now connected v.plot).plotLast,
              inpLast := (s.inputTurn now connected v.inp).inpLast,
              senLast := (s.sensorTurn now connected v.sen).senLast,
              out := u.out ++ ind.map PortRecord.tx ++ plot.map PortRecord.tx
                ++ pan.map PortRecord.tx ++ inp.map PortRecord.tx ++ sen.map PortRecord.tx } := by
  obtain ⟨ind, hind1, hind⟩ := indicatorTurn_effect s now connected v.ind
  obtain ⟨plot, hplot1, hplot⟩ := plotTurn_effect s now connected v.plot
  obtain ⟨pan, hpan1, -, hpan⟩ := panelTurn_effect s now connected v.pan
  obtain ⟨inp, hinp1, hinp⟩ := inputTurn_effect s now connected v.inp
  obtain ⟨sen, hsen1, hsen⟩ := sensorTurn_effect s now connected v.sen
  refine ⟨ind, plot, pan, inp, sen, by omega, congrArg State.out (hind s rfl rfl),
    congrArg State.out (hplot s rfl rfl), congrArg State.out (hpan s rfl rfl),
    congrArg State.out (hinp s rfl rfl), congrArg State.out (hsen s rfl rfl), fun u hcfg hsched => ?tick⟩
  case tick =>
    rw [← hsched, State.tick, hind (u.withScheduler s) hcfg rfl, hplot _ (by exact hcfg) (by rfl),
      hpan _ (by exact hcfg) (by rfl), hinp _ (by exact hcfg) (by rfl),
      hsen _ (by exact hcfg) (by rfl)]
    rfl

/-- Settles O41: `tick_effect` of the state itself. -/
theorem tickChannelsAreIndependent : Obligations.TickChannelsAreIndependent := by
  intro now connected v s
  obtain ⟨ind, plot, pan, inp, sen, hcount, hind, hplot, hpan, hinp, hsen, htick⟩ :=
    tick_effect s (nowOnPort s.cfg.w now) connected v
  exact ⟨_, _, _, _, _, _, _, _, _, _, _, rfl, hind, rfl, hplot, rfl, hpan, rfl, hinp, rfl, hsen,
    by simpa only [List.length_map] using hcount, rfl, htick s rfl rfl⟩

/-- Settles O43: a disabled channel's turn changes nothing. -/
theorem disabledChannelsDoNothing : Obligations.DisabledChannelsDoNothing := by
  intro now connected v s h
  have hpanel : ∀ n, s.panelTurn n connected v.pan = s := fun n => by
    rw [panelTurn_eq, if_pos (h .panel)]
  constructor
  · refine congrArg Host.Outcome.next ?_
    simp only [State.tick, indicatorTurn_eq, plotTurn_eq, inputTurn_eq, sensorTurn_eq,
      indChannel.turn_disabled s _ _ _ (h .ind), plotChannel.turn_disabled s _ _ _ (h .plot), hpanel,
      inpChannel.turn_disabled s _ _ _ (h .inp), senChannel.turn_disabled s _ _ _ (h .sen)]
  · refine congrArg Host.Outcome.next ?_
    rw [namesTurn_eq, if_neg fun hen => absurd hen.1 (by simp [h .cfg])]

end Sys2Proof.Machine
end

section
/-! PROOFS. Single rules of the block, each read off a definition or a law: power-on and RESET, the
command port, the packet table, the checksum test of one whole packet, and Elapsed. -/

namespace Sys2Proof.Machine

/-! ### Power-on and RESET -/

/-- Settles O1: `State.reset` and the reference configuration, field by field. -/
theorem powerOnRegistersHoldResetValues : Obligations.PowerOnRegistersHoldResetValues := by
  refine ⟨fun _ => rfl, rfl, rfl, rfl, rfl, rfl, rfl, rfl, rfl, rfl, rfl, rfl, rfl, rfl, rfl, rfl, rfl, rfl,
    rfl, rfl, rfl, rfl, fun ch => ?enabled, rfl, rfl⟩
  case enabled => cases ch <;> rfl

/-- 00_scope.md R7 without U16_ORDER, as propositions. -/
theorem paramsLegal_iff (p : Params) :
    paramsLegal p = true ↔
      18 ≤ p.c ∧ (∀ t ∈ [p.tInd, p.tPlot, p.tRwin, p.tRint, p.tInp, p.tSen], t < 2 ^ p.w)
        ∧ p.names.length ≤ 255 ∧ ∀ name ∈ p.names, name.length ≤ 255 := by
  simp only [paramsLegal, Bool.and_eq_true, decide_eq_true_eq, List.all_eq_true, catalogFits_iff,
    and_assoc]

/-- A state just after RESET satisfies the invariant when its configuration is legal. -/
theorem resetWith_inv {s : State} {cfg : Cfg} (h : paramsLegal cfg.toParams = true) :
    (s.resetWith cfg).Inv := by
  have hpos : 0 < 2 ^ cfg.w := Nat.two_pow_pos cfg.w
  exact ⟨h, rfl, Nat.zero_le _, ⟨hpos, hpos, hpos, hpos, hpos, hpos⟩, fun _ => ⟨rfl, rfl, rfl⟩⟩

/-- Settles O2: power-on is a RESET with the reference configuration, which is legal. -/
theorem powerOnSatisfiesInvariant : Obligations.PowerOnSatisfiesInvariant :=
  resetWith_inv (s := State.reset) (cfg := Cfg.reference) (by decide)

/-- Settles O3: `latchConfig_eq_some` says that the configuration is latched. -/
theorem resetLatchesConfigurationAndClears : Obligations.ResetLatchesConfigurationAndClears := by
  intro op ord s hc htimes hcount hlengths hord
  have hlatch : latchConfig op = some { op.toParams with u16Order := ord } :=
    latchConfig_eq_some.mpr ⟨ord, orderOfCode_eq_some.mpr hord,
      (paramsLegal_iff op.toParams).mpr ⟨hc, htimes, hcount, hlengths⟩, rfl⟩
  show execReset op s = _
  rw [execReset, hlatch]
  rfl

theorem orderOfCode_eq_none (code : Byte) : orderOfCode code = none ↔ code ≠ 0 ∧ code ≠ 1 := by
  unfold orderOfCode
  split
  case isTrue h0 => simp [h0]
  case isFalse h0 =>
    split
    case isTrue h1 => simp [h1]
    case isFalse h1 => exact iff_of_true rfl ⟨h0, h1⟩

/-- RESET latches nothing exactly when its configuration breaks 00_scope.md R7. -/
theorem latchConfig_eq_none (op : CfgOperand) :
    latchConfig op = none ↔
      (op.c < 18
        ∨ (∃ t ∈ [op.tInd, op.tPlot, op.tRwin, op.tRint, op.tInp, op.tSen], 2 ^ op.w ≤ t)
        ∨ (op.u16Order ≠ 0 ∧ op.u16Order ≠ 1)
        ∨ 255 < op.names.length ∨ ∃ name ∈ op.names, 255 < name.length) := by
  have hparams : ¬ paramsLegal op.toParams = true ↔
      (op.c < 18
        ∨ (∃ t ∈ [op.tInd, op.tPlot, op.tRwin, op.tRint, op.tInp, op.tSen], 2 ^ op.w ≤ t)
        ∨ 255 < op.names.length ∨ ∃ name ∈ op.names, 255 < name.length) := by
    simp only [paramsLegal_iff, not_and_or, not_forall, not_le, not_lt, exists_prop]
  have hlatch : latchConfig op = none
      ↔ orderOfCode op.u16Order = none ∨ ¬ paramsLegal op.toParams = true := by
    unfold latchConfig
    cases orderOfCode op.u16Order with
    | none => simp
    | some ord => by_cases hp : paramsLegal op.toParams = true <;> simp [hp]
  rw [hlatch, hparams, orderOfCode_eq_none]
  exact or_left_comm.trans (or_congr_right or_left_comm)

/-- RESET answers as its configuration latches. -/
theorem execReset_refused_iff (op : CfgOperand) (s : State) :
    exec (.reset op) s = .refused .badConfig ↔ latchConfig op = none := by
  show execReset op s = _ ↔ _
  unfold execReset
  cases latchConfig op <;> simp

/-- Settles O4: RESET refuses exactly what it cannot latch. -/
theorem resetRefusedExactlyOnBadConfig : Obligations.ResetRefusedExactlyOnBadConfig :=
  fun op s => (execReset_refused_iff op s).trans (latchConfig_eq_none op)

/-! ### The command port -/

theorem step_of_nil {s : State} (h : s.pending = []) : step s = .next s := by
  rw [step, h]

theorem step_of_cons {s : State} {r : PortInput} {rest : List PortInput} (h : s.pending = r :: rest) :
    step s = runInput r { s with pending := rest } := by
  rw [step, h, State.takeInput, h]
  rfl

theorem runInput_of_ok {s : State} {r : PortInput} {i : Instr} (h : decode s.cfg.u16Order r = .ok i) :
    runInput r s = exec i s := by
  rw [runInput, h]

theorem runInput_of_error {s : State} {r : PortInput} {why : DecodeError}
    (h : decode s.cfg.u16Order r = .error why) : runInput r s = .next s := by
  rw [runInput, h]

/-- Settles O9: `step` takes the oldest record and `runInput` runs what it decodes to. -/
theorem stepRunsTheDecodedInstruction : Obligations.StepRunsTheDecodedInstruction :=
  ⟨fun _ _ _ _ hpending hdecode => (step_of_cons hpending).trans (runInput_of_ok hdecode),
    fun _ _ _ _ hpending hdecode => (step_of_cons hpending).trans (runInput_of_error hdecode),
    fun _ => step_of_nil⟩

/-! ### Encodings -/

/-- Settles O12: each word by the decoder's own evaluation. -/
theorem specWordsDecode : Obligations.SpecWordsDecode :=
  ⟨rfl, rfl, rfl, rfl, rfl, rfl, rfl⟩

/-- Settles O14: the two recognised headers are `hdrType_state` and `hdrType_event`; no third kind
is left. -/
theorem exactlyTwoHeadersAreRecognised : Obligations.ExactlyTwoHeadersAreRecognised := by
  intro a b
  refine ⟨hdrType_state, hdrType_event, ?none⟩
  rw [← hdrType_state, ← hdrType_event]
  cases hdrType a b with
  | none => simp
  | some kind => cases kind <;> simp

theorem withChecksum_length (t : PacketType) (payload : List Byte) :
    (withChecksum t payload).length = payload.length + 3 := by
  cases t <;> simp [withChecksum, headerBytes]

theorem withChecksum_header (t : PacketType) (payload : List Byte) :
    (withChecksum t payload).take 2 = headerBytes t := by
  cases t <;> rfl

/-- Settles O15: the payload lengths, with the header and the checksum of `withChecksum`. -/
theorem packetHeadersAndSizes : Obligations.PacketHeadersAndSizes := by
  intro ord st id csum pan ind plot names inp sen
  refine ⟨⟨packState_length ord st, rfl⟩, ⟨rfl, rfl⟩, ⟨?pan, rfl⟩, ⟨rfl, rfl⟩, ⟨rfl, rfl⟩,
    ⟨packCfg_length names, rfl⟩, ⟨?inp, rfl⟩, ⟨?sen, rfl⟩⟩
  case pan =>
    rw [packPanel, withChecksum_length, panPayload]
    simp only [List.length_append, put16_length, List.length_singleton]
  case inp =>
    rw [packInp, withChecksum_length, inpPayload]
    simp only [List.length_append, put16_length, List.length_cons, List.length_nil]
  case sen =>
    rw [packSen, withChecksum_length, senPayload]
    simp only [List.length_append, put16_length, List.length_singleton]

/-! ### The checksum test of one whole packet -/

theorem checksumOk_packState (ord : U16Order) (p : StatePacket) :
    checksumOk .state (packState ord p) = true ↔ p.csum = sum8 (statePayload ord p) := by
  rw [checksumOk_iff]
  show (packState ord p)[15]? = some (sum8 (((packState ord p).drop 2).take 13)) ↔ _
  rw [packState_csum, packState_checksummed, Option.some_inj]

theorem checksumOk_packEvent (id csum : Byte) :
    checksumOk .event (packEvent id csum) = true ↔ csum = id := by
  show checksumOk .event [0xBB, 0x66, id, csum] = true ↔ _
  rw [checksumOk_event, beq_iff_eq]

theorem offer_eq (s : State) (kind : PacketKind) (p : List Byte) :
    s.offer kind p
      = if s.cfg.validateCsum = true ∧ ¬ checksumOk kind p = true then s else s.dispatch kind p := by
  rcases offer_cases s kind p with ⟨hpass, hoffer⟩ | ⟨⟨hvalidate, hfail⟩, hoffer⟩
  · rw [hoffer, if_neg fun h => h.2 (hpass h.1)]
  · rw [hoffer, if_pos ⟨hvalidate, by simp [hfail]⟩]

/-- `Dispatch` emits the two records of the packet and does nothing else (40_decoder.md R81, R82). -/
theorem dispatch_eq (s : State) (kind : PacketKind) (p : List Byte) :
    s.dispatch kind p = { s with out := s.out ++ packetRecords (kind, p) } := by
  rw [packetRecords_eq]
  simp only [State.dispatch, State.emit, List.append_assoc, List.cons_append, List.nil_append]

/-- Settles O31: `offer_eq` with each packet's checksum test. -/
theorem wholeInboundPacketIsTestedAndDispatched : Obligations.WholeInboundPacketIsTestedAndDispatched := by
  refine ⟨fun p s => ?state, fun id csum s => ?event⟩
  case state =>
    refine congrArg Host.Outcome.next ?_
    rw [offer_eq, dispatch_eq]
    simp only [checksumOk_packState]
    rfl
  case event =>
    refine congrArg Host.Outcome.next ?_
    rw [offer_eq, dispatch_eq]
    simp only [checksumOk_packEvent]
    rfl

/-! ### Elapsed -/

/-- Settles O32: the exact difference, reduced once modulo `2 ^ w`. -/
theorem elapsedIsModular : Obligations.ElapsedIsModular := by
  refine ⟨fun w now since hnow hsince => ?difference, elapsed_self, fun w t d hd => ?delay, by decide⟩
  case difference =>
    unfold elapsed
    split
    case isTrue hle =>
      rw [Int.emod_eq_of_lt (by omega) (by omega)]
      omega
    case isFalse hgt =>
      rw [← Int.add_emod_right, Int.emod_eq_of_lt (by omega) (by omega)]
      omega
  case delay =>
    unfold elapsed
    push_cast
    rw [Int.emod_sub_emod, add_sub_cancel_left, Int.emod_eq_of_lt (by omega) (by exact_mod_cast hd)]
    omega

end Sys2Proof.Machine
end

section
/-! PROOFS. The whole machine. Every next state of `exec` comes from the decoder, from the
scheduler, or from RESET (`exec_next_cases`); what every step keeps and what it can emit is read off
these three cases. -/

namespace Sys2Proof.Machine

/-! ### The ports of the two parts -/

@[simp] theorem dispRecords_append (xs ys : List PortRecord) :
    dispRecords (xs ++ ys) = dispRecords xs ++ dispRecords ys := List.filterMap_append

@[simp] theorem logRecords_append (xs ys : List PortRecord) :
    logRecords (xs ++ ys) = logRecords xs ++ logRecords ys := List.filterMap_append

@[simp] theorem txRecords_append (xs ys : List PortRecord) :
    txRecords (xs ++ ys) = txRecords xs ++ txRecords ys := List.filterMap_append

@[simp] theorem dispRecords_map_tx (pkts : List (List Byte)) :
    dispRecords (pkts.map PortRecord.tx) = [] := by
  induction pkts with
  | nil => rfl
  | cons p pkts ih => exact ih

@[simp] theorem logRecords_map_tx (pkts : List (List Byte)) :
    logRecords (pkts.map PortRecord.tx) = [] := by
  induction pkts with
  | nil => rfl
  | cons p pkts ih => exact ih

@[simp] theorem txRecords_map_tx (pkts : List (List Byte)) : txRecords (pkts.map PortRecord.tx) = pkts := by
  induction pkts with
  | nil => rfl
  | cons p pkts ih => exact congrArg (p :: ·) ih

@[simp] theorem txRecords_packetRecords (ps : List (PacketKind × List Byte)) :
    txRecords (ps.flatMap packetRecords) = [] := by
  induction ps with
  | nil => rfl
  | cons q ps ih =>
    obtain ⟨kind, p⟩ := q
    rw [List.flatMap_cons, packetRecords_eq]
    exact ih

/-! ### What the decoder's meanings write -/

/-- `t` is `s` after the decoder: other bytes in the buffer, and the records of some packets. -/
def DecoderOnly (s t : State) : Prop :=
  ∃ rb rbCnt, ∃ ps : List (PacketKind × List Byte),
    t = { s with rb := rb, rbCnt := rbCnt, out := s.out ++ ps.flatMap packetRecords }

theorem DecoderOnly.refl (s : State) : DecoderOnly s s :=
  ⟨s.rb, s.rbCnt, [], by rw [List.flatMap_nil, List.append_nil]⟩

theorem DecoderOnly.trans {s t u : State} (h : DecoderOnly s t) (h' : DecoderOnly t u) :
    DecoderOnly s u := by
  obtain ⟨_, _, ps, rfl⟩ := h
  obtain ⟨rb, rbCnt, qs, rfl⟩ := h'
  exact ⟨rb, rbCnt, ps ++ qs, by rw [List.flatMap_append, List.append_assoc]⟩

theorem decoderOnly_dispatch (s : State) (kind : PacketKind) (p : List Byte) :
    DecoderOnly s (s.dispatch kind p) :=
  ⟨s.rb, s.rbCnt, [(kind, p)], by rw [dispatch_eq, List.flatMap_singleton]⟩

theorem decoderOnly_offer (s : State) (kind : PacketKind) (p : List Byte) :
    DecoderOnly s (s.offer kind p) := by
  rcases offer_cases s kind p with ⟨-, hoffer⟩ | ⟨-, hoffer⟩ <;> rw [hoffer]
  · exact decoderOnly_dispatch s kind p
  · exact .refl s

theorem decoderOnly_compact (s : State) (k : Nat) : DecoderOnly s (s.compact k) :=
  ⟨_, _, [], by rw [List.flatMap_nil, List.append_nil, State.compact]⟩

theorem decoderOnly_ingest (rx : List Byte) (s : State) : DecoderOnly s (s.ingest rx) := by
  obtain ⟨rb, rbCnt, hingest⟩ := ingest_frame rx s
  exact ⟨rb, rbCnt, [], by rw [hingest, List.flatMap_nil, List.append_nil]⟩

/-- Whatever the buffer, the passes of DRAIN dispatch and compact. -/
theorem decoderOnly_drainLoop {fuel : Nat} {s t : State} (h : drainLoop fuel s = .next t) :
    DecoderOnly s t := by
  induction fuel generalizing s with
  | zero =>
    obtain rfl := Host.Outcome.next.inj h
    exact .refl s
  | succ fuel ih =>
    rw [drainLoop] at h
    split at h
    case isTrue =>
      obtain rfl := Host.Outcome.next.inj h
      exact .refl s
    case isFalse =>
      split at h
      case h_1 => exact nomatch h
      case h_2 held _ =>
        split at h
        case h_1 =>
          obtain rfl := Host.Outcome.next.inj h
          exact .refl s
        case h_2 i kind _ =>
          split at h
          case h_1 => exact nomatch h
          case h_2 p _ =>
            exact ((decoderOnly_dispatch s kind p).trans (decoderOnly_compact _ _)).trans (ih h)

/-! ### What the scheduler's meanings put on TX -/

/-- What `t` has emitted after `s` are TX packets with outbound headers (30_encoding.md R68). -/
def EmitsOutbound (s t : State) : Prop :=
  ∃ pkts : List (List Byte), t.out = s.out ++ pkts.map PortRecord.tx
    ∧ ∀ p ∈ pkts, p.take 2 ∈ outboundHeaders

theorem EmitsOutbound.refl (s : State) : EmitsOutbound s s :=
  ⟨[], (List.append_nil _).symm, List.forall_mem_nil _⟩

theorem EmitsOutbound.trans {s t u : State} (h : EmitsOutbound s t) (h' : EmitsOutbound t u) :
    EmitsOutbound s u := by
  obtain ⟨ps, hout, hps⟩ := h
  obtain ⟨qs, hout', hqs⟩ := h'
  refine ⟨ps ++ qs, by rw [hout', hout, List.map_append, List.append_assoc], fun p hmem => ?_⟩
  exact (List.mem_append.mp hmem).elim (hps p) (hqs p)

theorem FixedChannel.turn_emitsOutbound (ch : FixedChannel) (s : State) (now : Nat) (connected : Bool)
    {pkt : List Byte} (h : pkt.take 2 ∈ outboundHeaders) :
    EmitsOutbound s (ch.turn s now connected pkt) := by
  rw [ch.turn_eq]
  split
  case isTrue => exact ⟨[pkt], ch.setLast_out _ _, List.forall_mem_singleton.mpr h⟩
  case isFalse => exact .refl s

theorem panelTurn_emitsOutbound (s : State) (now : Nat) (connected : Bool) (v : PanSample) :
    EmitsOutbound s (s.panelTurn now connected v) := by
  obtain ⟨pkts, -, hheader, hturn⟩ := panelTurn_effect s now connected v
  refine ⟨pkts, congrArg State.out (hturn s rfl rfl), fun p hmem => ?_⟩
  rw [hheader p hmem]
  decide

theorem namesTurn_emitsOutbound (s : State) (connected : Bool) (names : List (List Byte)) :
    EmitsOutbound s (s.namesTurn connected names) := by
  rw [namesTurn_eq]
  split
  case isTrue =>
    have hheader : (packCfg names).take 2 ∈ outboundHeaders := by
      rw [packCfg_eq]
      exact (by decide : [0xCC, 0x44] ∈ outboundHeaders)
    exact ⟨[packCfg names], rfl, List.forall_mem_singleton.mpr hheader⟩
  case isFalse => exact .refl s

theorem indicatorTurn_emitsOutbound (s : State) (now : Nat) (connected : Bool) (v : IndSample) :
    EmitsOutbound s (s.indicatorTurn now connected v) :=
  indChannel.turn_emitsOutbound s now connected (pkt := packInd v)
    (by rw [packInd, withChecksum_header]; decide)

theorem plotTurn_emitsOutbound (s : State) (now : Nat) (connected : Bool) (v : PlotSample) :
    EmitsOutbound s (s.plotTurn now connected v) :=
  plotChannel.turn_emitsOutbound s now connected (pkt := packPlot v)
    (by rw [packPlot, withChecksum_header]; decide)

theorem inputTurn_emitsOutbound (s : State) (now : Nat) (connected : Bool) (v : InpSample) :
    EmitsOutbound s (s.inputTurn now connected v) :=
  inpChannel.turn_emitsOutbound s now connected (pkt := packInp s.cfg.u16Order v)
    (by rw [packInp, withChecksum_header]; decide)

theorem sensorTurn_emitsOutbound (s : State) (now : Nat) (connected : Bool) (v : SenSample) :
    EmitsOutbound s (s.sensorTurn now connected v) :=
  senChannel.turn_emitsOutbound s now connected (pkt := packSen s.cfg.u16Order v)
    (by rw [packSen, withChecksum_header]; decide)

theorem tick_emitsOutbound (s : State) (now : Nat) (connected : Bool) (v : Sample) :
    EmitsOutbound s (s.tick now connected v) :=
  ((((indicatorTurn_emitsOutbound s now connected v.ind).trans
    (plotTurn_emitsOutbound _ now connected v.plot)).trans
    (panelTurn_emitsOutbound _ now connected v.pan)).trans
    (inputTurn_emitsOutbound _ now connected v.inp)).trans
    (sensorTurn_emitsOutbound _ now connected v.sen)

/-! ### What an instruction can do -/

theorem execReset_next {op : CfgOperand} {s t : State} (h : execReset op s = .next t) :
    ∃ cfg, latchConfig op = some cfg ∧ t = s.resetWith cfg := by
  unfold execReset at h
  split at h
  case h_1 => exact nomatch h
  case h_2 cfg hlatch => exact ⟨cfg, hlatch, (Host.Outcome.next.inj h).symm⟩

/-- A next state comes from the decoder, from the scheduler, or from a RESET with a legal
configuration. -/
theorem exec_next_cases {i : Instr} {s t : State} (h : exec i s = .next t) :
    DecoderOnly s t ∨ (SchedulerOnly s t ∧ EmitsOutbound s t)
      ∨ ∃ op cfg, i = .reset op ∧ latchConfig op = some cfg ∧ t = s.resetWith cfg := by
  cases i with
  | nop => obtain rfl := Host.Outcome.next.inj h; exact .inl (.refl s)
  | ingest rx => obtain rfl := Host.Outcome.next.inj h; exact .inl (decoderOnly_ingest rx s)
  | drain => exact .inl (decoderOnly_drainLoop h)
  | state | event => obtain rfl := Host.Outcome.next.inj h; exact .inl (decoderOnly_offer s _ _)
  | tick =>
    obtain rfl := Host.Outcome.next.inj h
    exact .inr (.inl ⟨tick_frame .., tick_emitsOutbound ..⟩)
  | configReq | configNames =>
    obtain rfl := Host.Outcome.next.inj h
    exact .inr (.inl ⟨namesTurn_frame .., namesTurn_emitsOutbound ..⟩)
  | panel =>
    obtain rfl := Host.Outcome.next.inj h
    exact .inr (.inl ⟨panelTurn_frame .., panelTurn_emitsOutbound ..⟩)
  | indicator =>
    obtain rfl := Host.Outcome.next.inj h
    exact .inr (.inl ⟨indicatorTurn_frame .., indicatorTurn_emitsOutbound ..⟩)
  | plot =>
    obtain rfl := Host.Outcome.next.inj h
    exact .inr (.inl ⟨plotTurn_frame .., plotTurn_emitsOutbound ..⟩)
  | inputTelemetry =>
    obtain rfl := Host.Outcome.next.inj h
    exact .inr (.inl ⟨inputTurn_frame .., inputTurn_emitsOutbound ..⟩)
  | sensorTelemetry =>
    obtain rfl := Host.Outcome.next.inj h
    exact .inr (.inl ⟨sensorTurn_frame .., sensorTurn_emitsOutbound ..⟩)
  | reserved101 | reserved110 => exact nomatch h
  | reset op =>
    obtain ⟨cfg, hlatch, rfl⟩ := execReset_next h
    exact .inr (.inr ⟨op, cfg, rfl, hlatch, rfl⟩)

/-- Settles O5: of the three cases of `exec_next_cases` only RESET writes the configuration. -/
theorem onlyResetChangesConfiguration : Obligations.OnlyResetChangesConfiguration := by
  intro i s t hi h
  obtain ⟨_, _, _, rfl⟩ | ⟨⟨hcfg, -⟩, -⟩ | ⟨op, _, hop, -⟩ := exec_next_cases h
  · rfl
  · exact hcfg
  · exact absurd hop (hi op)

/-- Settles O48: the decoder puts nothing on TX, the scheduler packets with outbound headers, RESET
nothing. -/
theorem onlyOutboundHeadersReachTx : Obligations.OnlyOutboundHeadersReachTx := by
  intro i s t h
  obtain ⟨_, _, ps, rfl⟩ | ⟨-, pkts, hout, hheaders⟩ | ⟨_, _, -, -, rfl⟩ := exec_next_cases h
  · exact ⟨_, rfl, by rw [txRecords_packetRecords]; exact List.forall_mem_nil _⟩
  · exact ⟨_, hout, by rw [txRecords_map_tx]; exact hheaders⟩
  · exact ⟨[], (List.append_nil _).symm, List.forall_mem_nil _⟩

/-- Everything a step can do: wait, take a record that is no instruction, or run an instruction. -/
theorem step_cases (s : State) :
    step s = .next s ∨ ∃ (r : PortInput) (rest : List PortInput), s.pending = r :: rest
      ∧ (step s = .next { s with pending := rest }
        ∨ ∃ i, decode s.cfg.u16Order r = .ok i ∧ step s = exec i { s with pending := rest }) := by
  obtain ⟨hok, herror, hnil⟩ := stepRunsTheDecodedInstruction
  cases hpending : s.pending with
  | nil => exact .inl (hnil s hpending)
  | cons r rest =>
    refine .inr ⟨r, rest, rfl, ?_⟩
    cases hdecode : decode s.cfg.u16Order r with
    | error why => exact .inl (herror s r rest why hpending hdecode)
    | ok i => exact .inr ⟨i, rfl, hok s r rest i hpending hdecode⟩

/-- Settles O47: the step runs at most one instruction, and that appends. -/
theorem outputPortsAreAppendOnly : Obligations.OutputPortsAreAppendOnly := by
  intro s t h
  obtain hstep | ⟨r, rest, -, hstep | ⟨i, -, hstep⟩⟩ := step_cases s
  · obtain rfl := Host.Outcome.next.inj (hstep.symm.trans h)
    exact ⟨[], (List.append_nil _).symm⟩
  · obtain rfl := Host.Outcome.next.inj (hstep.symm.trans h)
    exact ⟨[], (List.append_nil _).symm⟩
  · obtain ⟨new, hout, -⟩ := onlyOutboundHeadersReachTx i _ t (hstep.symm.trans h)
    exact ⟨new, hout⟩

/-- Settles O49: the frames of the two parts. -/
theorem theTwoPartsShareNoState : Obligations.TheTwoPartsShareNoState := by
  refine ⟨fun i s t hi h => ?decoder, fun i s t hi h => ?scheduler⟩
  case decoder =>
    have hframe : DecoderOnly s t := by
      cases hi with
      | ingest rx => obtain rfl := Host.Outcome.next.inj h; exact decoderOnly_ingest rx s
      | drain => exact decoderOnly_drainLoop h
    obtain ⟨_, _, ps, rfl⟩ := hframe
    exact ⟨⟨rfl, rfl, rfl, rfl, rfl, rfl, rfl, rfl, rfl, rfl, rfl, rfl⟩, rfl, by simp⟩
  case scheduler =>
    have hframe : SchedulerOnly s t := by
      cases hi with
      | tick => obtain rfl := Host.Outcome.next.inj h; exact tick_frame ..
      | configReq => obtain rfl := Host.Outcome.next.inj h; exact namesTurn_frame ..
    obtain ⟨hcfg, hrb, hcount, -, pkts, hout⟩ := hframe
    exact ⟨⟨hrb, hcount⟩, hcfg, by simp [hout], by simp [hout]⟩

/-! ### No fault, and the two refusals -/

theorem execReset_cases (op : CfgOperand) (s : State) :
    (∃ t, exec (.reset op) s = .next t) ∨ exec (.reset op) s = .refused .badConfig := by
  show (∃ t, execReset op s = .next t) ∨ execReset op s = .refused .badConfig
  unfold execReset
  split
  case h_1 => exact .inr rfl
  case h_2 cfg _ => exact .inl ⟨_, rfl⟩

/-- Settles O8: DRAIN completes on a held buffer by `execDrain_held`, RESET is taken or refused, and
the other meanings are total. -/
theorem noFaultAndOnlyTwoRefusals : Obligations.NoFaultAndOnlyTwoRefusals := by
  intro i s h
  cases i with
  | drain =>
    obtain ⟨ps, rest, -, hexec⟩ := execDrain_held h
    exact .inl ⟨_, hexec⟩
  | reserved101 => exact .inr (.inl ⟨rfl, .inl rfl⟩)
  | reserved110 => exact .inr (.inl ⟨rfl, .inr rfl⟩)
  | reset op => exact (execReset_cases op s).imp_right fun hbad => .inr ⟨hbad, op, rfl⟩
  | nop | ingest | tick | configReq | state | event | panel | indicator | plot | configNames
  | inputTelemetry | sensorTelemetry => exact .inl ⟨_, rfl⟩

/-- Settles O52: a step that runs an instruction refuses as the instruction does. -/
theorem onlyTheTwoListedRefusalsExist : Obligations.OnlyTheTwoListedRefusalsExist := by
  intro s h
  obtain hstep | ⟨r, rest, hpending, hstep | ⟨i, hdecode, hstep⟩⟩ := step_cases s
  · exact .inl ⟨_, hstep⟩
  · exact .inl ⟨_, hstep⟩
  · rw [hstep]
    obtain hnext | ⟨hres, hcode⟩ | ⟨hbad, op, rfl⟩ :=
      noFaultAndOnlyTwoRefusals i { s with pending := rest } h
    · exact .inl hnext
    · refine .inr ⟨r, rest, hpending, .inl ⟨hres, ?_⟩⟩
      rcases hcode with rfl | rfl
      · exact .inl hdecode
      · exact .inr hdecode
    · exact .inr ⟨r, rest, hpending, .inr ⟨hbad, op, hdecode,
        (resetRefusedExactlyOnBadConfig op _).mp hbad⟩⟩

end Sys2Proof.Machine
end

section
/-! PROOFS. The invariant of the block (10_state.md sections 3 and 4): every instruction keeps it,
so every step and every sequence of polls does. -/

namespace Sys2Proof.Machine

/-! ### Operations that keep the invariant -/

/-- Emitting and taking a record touch nothing the invariant speaks of; other held bytes within `C`
may stand in the buffer. -/
theorem inv_of_buffer {s : State} (h : s.Inv) {rb : Memory} {rbCnt : Nat} (out : List PortRecord)
    (pending : List PortInput) (hheld : rb.map Prod.fst = List.range rbCnt) (hcap : rbCnt ≤ s.cfg.c) :
    { s with rb := rb, rbCnt := rbCnt, out := out, pending := pending }.Inv := by
  obtain ⟨hlegal, -, -, htimes, hpanel⟩ := h
  exact ⟨hlegal, hheld, hcap, htimes, hpanel⟩

theorem inv_offer {s : State} (h : s.Inv) (kind : PacketKind) (p : List Byte) :
    (s.offer kind p).Inv := by
  rcases offer_cases s kind p with ⟨-, hoffer⟩ | ⟨-, hoffer⟩ <;> rw [hoffer]
  · exact h
  · exact h

theorem inv_ingest {s : State} (h : s.Inv) (rx : List Byte) : (s.ingest rx).Inv := by
  obtain ⟨hlegal, hheld, hcap, -⟩ := id h
  obtain ⟨hroom, -⟩ := (paramsLegal_iff _).mp hlegal
  obtain ⟨hheld', hbytes⟩ := ingest_held rx hheld hcap (by omega)
  have hcap' : (s.ingest rx).rbCnt ≤ s.cfg.c := by
    rw [← length_bytes_held hheld', hbytes, length_rtake]
    exact Nat.min_le_left ..
  obtain ⟨rb, rbCnt, hframe⟩ := ingest_frame rx s
  rw [hframe] at hheld' hcap' ⊢
  exact inv_of_buffer h s.out s.pending hheld' hcap'

theorem inv_drained {s : State} (h : s.Inv) {ps : List (PacketKind × List Byte)} {rest : List Byte}
    (hdrains : Drains s.cfg.validateCsum s.bytes ps rest) : (s.drained ps rest).Inv := by
  obtain ⟨-, hheld, hcap, -⟩ := id h
  have hlen := drains_length hdrains
  rw [length_bytes_held hheld] at hlen
  exact inv_of_buffer h _ s.pending (drained_held s ps rest).1 (by omega)

theorem FixedChannel.inv_turn (ch : FixedChannel) {s : State} (h : s.Inv) {now : Nat}
    (hnow : now < 2 ^ s.cfg.w) (connected : Bool) (pkt : List Byte) :
    (ch.turn s now connected pkt).Inv := by
  rw [ch.turn_eq]
  split
  case isTrue => exact ch.setLast_inv (s.emit (.tx pkt)) now h hnow
  case isFalse => exact h

theorem inv_indicatorTurn {s : State} (h : s.Inv) {now : Nat} (hnow : now < 2 ^ s.cfg.w)
    (connected : Bool) (v : IndSample) : (s.indicatorTurn now connected v).Inv :=
  indChannel.inv_turn h hnow connected (packInd v)

theorem inv_plotTurn {s : State} (h : s.Inv) {now : Nat} (hnow : now < 2 ^ s.cfg.w)
    (connected : Bool) (v : PlotSample) : (s.plotTurn now connected v).Inv :=
  plotChannel.inv_turn h hnow connected (packPlot v)

theorem inv_inputTurn {s : State} (h : s.Inv) {now : Nat} (hnow : now < 2 ^ s.cfg.w)
    (connected : Bool) (v : InpSample) : (s.inputTurn now connected v).Inv :=
  inpChannel.inv_turn h hnow connected (packInp s.cfg.u16Order v)

theorem inv_sensorTurn {s : State} (h : s.Inv) {now : Nat} (hnow : now < 2 ^ s.cfg.w)
    (connected : Bool) (v : SenSample) : (s.sensorTurn now connected v).Inv :=
  senChannel.inv_turn h hnow connected (packSen s.cfg.u16Order v)

/-- Every action of the Panel keeps its registers consistent and its times in range. -/
theorem inv_panelAction {s : State} (h : s.Inv) {now : Nat} (hnow : now < 2 ^ s.cfg.w) (a : PanelAction)
    (v : PanSample) : (a.run now v s).Inv := by
  obtain ⟨hlegal, hheld, hcap, ⟨hind, hplot, hinp, hsen, hstart, hlast⟩, hpanel⟩ := id h
  cases a with
  | idle => exact h
  | openAndClose =>
    exact ⟨hlegal, hheld, hcap, ⟨hind, hplot, hinp, hsen, hnow, hlast⟩, fun _ => ⟨rfl, rfl, rfl⟩⟩
  | openAndSend => exact ⟨hlegal, hheld, hcap, ⟨hind, hplot, hinp, hsen, hnow, hnow⟩, nofun⟩
  | openUnsent => exact ⟨hlegal, hheld, hcap, ⟨hind, hplot, hinp, hsen, hnow, hlast⟩, nofun⟩
  | send =>
    refine ⟨hlegal, hheld, hcap, ⟨hind, hplot, hinp, hsen, hstart, hnow⟩, fun hclosed => ?_⟩
    obtain ⟨-, hcommitted⟩ := hpanel hclosed
    exact ⟨rfl, hcommitted⟩
  | close =>
    exact ⟨hlegal, hheld, hcap, ⟨hind, hplot, hinp, hsen, hstart, hlast⟩, fun _ => ⟨rfl, rfl, rfl⟩⟩

theorem inv_panelTurn {s : State} (h : s.Inv) {now : Nat} (hnow : now < 2 ^ s.cfg.w) (connected : Bool)
    (v : PanSample) : (s.panelTurn now connected v).Inv := by
  rw [panelTurn_eq_run]
  exact inv_panelAction h hnow _ v

theorem inv_namesTurn {s : State} (h : s.Inv) (connected : Bool) (names : List (List Byte)) :
    (s.namesTurn connected names).Inv := by
  rw [namesTurn_eq]
  split
  case isTrue => exact h
  case isFalse => exact h

theorem inv_tick {s : State} (h : s.Inv) {now : Nat} (hnow : now < 2 ^ s.cfg.w) (connected : Bool)
    (v : Sample) : (s.tick now connected v).Inv := by
  have hcfg1 := (indicatorTurn_frame s now connected v.ind).cfg_eq
  have hcfg2 := (plotTurn_frame _ now connected v.plot).cfg_eq.trans hcfg1
  have hcfg3 := (panelTurn_frame _ now connected v.pan).cfg_eq.trans hcfg2
  have hcfg4 := (inputTurn_frame _ now connected v.inp).cfg_eq.trans hcfg3
  have h1 := inv_indicatorTurn h hnow connected v.ind
  have h2 := inv_plotTurn h1 (hcfg1 ▸ hnow) connected v.plot
  have h3 := inv_panelTurn h2 (hcfg2 ▸ hnow) connected v.pan
  have h4 := inv_inputTurn h3 (hcfg3 ▸ hnow) connected v.inp
  exact inv_sensorTurn h4 (hcfg4 ▸ hnow) connected v.sen

/-! ### Instructions, steps and polls -/

theorem exec_keeps_inv {i : Instr} {s t : State} (h : s.Inv) (hexec : exec i s = .next t) : t.Inv := by
  have hnow : ∀ now, nowOnPort s.cfg.w now < 2 ^ s.cfg.w := nowOnPort_lt s.cfg.w
  cases i with
  | drain =>
    obtain ⟨-, hheld, -⟩ := id h
    obtain ⟨ps, rest, hdrains, hdrain⟩ := execDrain_held hheld
    obtain rfl := Host.Outcome.next.inj (hdrain.symm.trans hexec)
    exact inv_drained h hdrains
  | reset op =>
    obtain ⟨cfg, hlatch, rfl⟩ := execReset_next hexec
    obtain ⟨_, -, hlegal, rfl⟩ := latchConfig_eq_some.mp hlatch
    exact resetWith_inv hlegal
  | reserved101 | reserved110 => exact nomatch hexec
  | nop => obtain rfl := Host.Outcome.next.inj hexec; exact h
  | ingest rx => obtain rfl := Host.Outcome.next.inj hexec; exact inv_ingest h rx
  | state | event => obtain rfl := Host.Outcome.next.inj hexec; exact inv_offer h _ _
  | tick now connected v =>
    obtain rfl := Host.Outcome.next.inj hexec
    exact inv_tick h (hnow now) connected v
  | configReq | configNames => obtain rfl := Host.Outcome.next.inj hexec; exact inv_namesTurn h _ _
  | panel now connected v =>
    obtain rfl := Host.Outcome.next.inj hexec
    exact inv_panelTurn h (hnow now) connected v
  | indicator now connected v =>
    obtain rfl := Host.Outcome.next.inj hexec
    exact inv_indicatorTurn h (hnow now) connected v
  | plot now connected v =>
    obtain rfl := Host.Outcome.next.inj hexec
    exact inv_plotTurn h (hnow now) connected v
  | inputTelemetry now connected v =>
    obtain rfl := Host.Outcome.next.inj hexec
    exact inv_inputTurn h (hnow now) connected v
  | sensorTelemetry now connected v =>
    obtain rfl := Host.Outcome.next.inj hexec
    exact inv_sensorTurn h (hnow now) connected v

/-- Settles O46: the step waits, takes a record, or runs an instruction, and `exec_keeps_inv`. -/
theorem everyStepKeepsTheInvariant : Obligations.EveryStepKeepsTheInvariant := by
  intro s t h hstep
  obtain hwait | ⟨r, rest, -, htake | ⟨i, -, hrun⟩⟩ := step_cases s
  · obtain rfl := Host.Outcome.next.inj (hwait.symm.trans hstep)
    exact h
  · obtain rfl := Host.Outcome.next.inj (htake.symm.trans hstep)
    exact h
  · have htaken : { s with pending := rest }.Inv := h
    exact exec_keeps_inv htaken (hrun.symm.trans hstep)

/-- Commands that never stop run to the end of their sequence and keep the invariant. -/
theorem runCommands_of_inv {is : List Instr} (his : ∀ i ∈ is, ∀ s : State, s.Inv → ∃ t, exec i s = .next t)
    {s : State} (h : s.Inv) : ∃ t, runCommands is s = .next t ∧ t.Inv := by
  induction is generalizing s with
  | nil => exact ⟨s, rfl, h⟩
  | cons i is ih =>
    obtain ⟨hi, his'⟩ := List.forall_mem_cons.mp his
    obtain ⟨t, ht⟩ := hi s h
    obtain ⟨u, hu, hinv⟩ := ih his' (exec_keeps_inv h ht)
    exact ⟨u, by rw [runCommands, ht]; exact hu, hinv⟩

/-- The three commands of a poll never stop on a held buffer. -/
theorem pollCommands_next {rx : List Byte} {now : Nat} {connected : Bool} {v : Sample} {i : Instr}
    (hi : i ∈ pollCommands rx now connected v) {s : State} (h : s.Inv) : ∃ t, exec i s = .next t := by
  obtain ⟨-, hheld, -⟩ := h
  obtain hnext | ⟨-, rfl | rfl⟩ | ⟨-, op, rfl⟩ := noFaultAndOnlyTwoRefusals i s hheld
  · exact hnext
  all_goals simp [pollCommands] at hi

/-- Settles O51: `runCommands_of_inv` of the polls, one after the other. -/
theorem pollingNeverStops : Obligations.PollingNeverStops := by
  intro s polls h
  refine runCommands_of_inv (fun i hi t ht => ?_) h
  obtain ⟨poll, -, hmem⟩ := List.mem_flatMap.mp hi
  exact pollCommands_next hmem ht

/-! ### The two parts commute -/

/-- INGEST of one byte reads and writes the buffer alone. -/
theorem ingestByte_congr {s u : State} (hcfg : u.cfg = s.cfg) (hrb : u.rb = s.rb)
    (hcount : u.rbCnt = s.rbCnt) (b : Byte) :
    u.ingestByte b = { u with rb := (s.ingestByte b).rb, rbCnt := (s.ingestByte b).rbCnt } := by
  simp only [State.ingestByte, hcount, hcfg]
  split
  all_goals simp only [State.append, State.evictOldest, hrb, hcount, hcfg]

theorem ingest_congr (rx : List Byte) {s u : State} (hcfg : u.cfg = s.cfg) (hrb : u.rb = s.rb)
    (hcount : u.rbCnt = s.rbCnt) :
    u.ingest rx = { u with rb := (s.ingest rx).rb, rbCnt := (s.ingest rx).rbCnt } := by
  induction rx generalizing s u with
  | nil =>
    show u = { u with rb := s.rb, rbCnt := s.rbCnt }
    rw [← hrb, ← hcount]
  | cons b rx ih =>
    rw [ingest_cons, ingest_cons, ingestByte_congr hcfg hrb hcount b]
    exact ih (s := s.ingestByte b) (by rw [State.ingestByte_cfg]; exact hcfg) rfl rfl

/-- A command of the decoder, by the configuration and the buffer alone. -/
theorem decoderCommand_effect {d : Instr} (hd : DecoderCommand d) {s : State} (h : s.BufferHeld) :
    ∃ rb rbCnt, ∃ ps : List (PacketKind × List Byte),
      ∀ u : State, u.cfg = s.cfg → u.rb = s.rb → u.rbCnt = s.rbCnt →
        exec d u
          = .next { u with rb := rb, rbCnt := rbCnt, out := u.out ++ ps.flatMap packetRecords } := by
  cases hd with
  | ingest rx =>
    refine ⟨(s.ingest rx).rb, (s.ingest rx).rbCnt, [], fun u hcfg hrb hcount =>
      congrArg Host.Outcome.next ?_⟩
    rw [ingest_congr rx hcfg hrb hcount, List.flatMap_nil, List.append_nil]
  | drain =>
    obtain ⟨ps, rest, hdrains, -⟩ := execDrain_held h
    refine ⟨cellsOf rest, rest.length, ps, fun u hcfg hrb hcount => ?_⟩
    have hheld : u.BufferHeld := by rw [State.BufferHeld, hrb, hcount]; exact h
    have hbytes : u.bytes = s.bytes := by rw [State.bytes, hrb]; rfl
    exact execDrain_of_drains hheld (by rw [hcfg, hbytes]; exact hdrains)

/-- A command of the scheduler, by the configuration and the scheduler's registers alone. -/
theorem schedulerCommand_effect {e : Instr} (he : SchedulerCommand e) (s : State) :
    ∃ (w : State) (pkts : List (List Byte)),
      ∀ u : State, u.cfg = s.cfg → u.withScheduler s = u →
        exec e u = .next { u.withScheduler w with out := u.out ++ pkts.map PortRecord.tx } := by
  cases he with
  | tick now connected v =>
    obtain ⟨ind, plot, pan, inp, sen, -, -, -, -, -, -, htick⟩ :=
      tick_effect s (nowOnPort s.cfg.w now) connected v
    refine ⟨s.tick (nowOnPort s.cfg.w now) connected v, ind ++ plot ++ pan ++ inp ++ sen,
      fun u hcfg hsched => ?_⟩
    show Host.Outcome.next (u.tick (nowOnPort u.cfg.w now) connected v) = _
    rw [hcfg, htick u hcfg hsched, htick s rfl rfl]
    simp only [List.map_append, List.append_assoc]
    rfl
  | configReq connected =>
    by_cases hsend : channelEnabled s.cfg.toParams .cfg = true ∧ connected = true
    · refine ⟨s, [packCfg s.cfg.names], fun u hcfg hsched => congrArg Host.Outcome.next ?_⟩
      rw [namesTurn_eq, hcfg, if_pos hsend, hsched]
      rfl
    · refine ⟨s, [], fun u hcfg hsched => congrArg Host.Outcome.next ?_⟩
      rw [namesTurn_eq, hcfg, if_neg hsend, hsched, List.map_nil, List.append_nil]

/-- Settles O50: each command's effect is the same before and after the other, and the two write
different ports. -/
theorem decoderAndSchedulerCommandsCommute : Obligations.DecoderAndSchedulerCommandsCommute := by
  intro d e s h hd he
  obtain ⟨rb, rbCnt, ps, hdecoder⟩ := decoderCommand_effect hd h
  obtain ⟨w, pkts, hscheduler⟩ := schedulerCommand_effect he s
  refine ⟨_, _, _, _, hdecoder s rfl rfl rfl, hscheduler _ rfl rfl, hscheduler s rfl rfl,
    hdecoder _ rfl rfl rfl, rfl, ?ports⟩
  case ports => exact ⟨by simp, by simp, by simp⟩

end Sys2Proof.Machine
end
